-- ==== Sys2Proof/Word.lean ====
section
/-! DEFINITION. The word types of the block (R8: bytes of 8 bits, words and addresses of 32 bits,
counters of 16 bits) and the one error value (R83: -1 as a 32-bit pattern). -/

namespace Sys2Proof

/-- A 32-bit word: a register of the command interface, an address, a rate or a handler token (R8, R26). -/
abbrev Word := BitVec 32

/-- A byte of system memory or of a data register (R8, R39). -/
abbrev Byte := BitVec 8

/-- A 16-bit counter: a length, a byte index, a remaining-counter (R8, R27, R48). -/
abbrev Half := BitVec 16

/-- The one error value of the block, "a negative sentinel": -1 (R83, R231). -/
abbrev minusOne : Word := 0xFFFFFFFF#32

end Sys2Proof
end

