-- ==== Sys2Proof/Syntax.lean ====
section
/-! DEFINITION. The fifteen operations of the block as syntax: one constructor for each row of the opcode
table (R84), with the fields the command word leaves free (R77 to R80) and the names operations have in the
observation trace (R57). -/

namespace Sys2Proof

/-- The operations (R84). `unit` is the INST field (R78), any of its 16 values; `sub` is SETH's event kind
field (R79); `circ` is RECV's SUB[0]; `len` is the 16-bit IMM; `value` is IMM[7:0]. -/
inductive Instr where
  | init   (unit : BitVec 4)
  | send   (unit : BitVec 4) (len : Half)
  | recv   (unit : BitVec 4) (circ : Bool) (len : Half)
  | sendb  (unit : BitVec 4) (value : Byte)
  | recvb  (unit : BitVec 4)
  | seth   (unit : BitVec 4) (sub : BitVec 4)
  | finit
  | fsend  (len : Half)
  | frecv
  | solveb
  | solvet
  | rdsr   (unit : BitVec 4)
  | rddr   (unit : BitVec 4)
  | wrdr   (unit : BitVec 4) (value : Byte)
  | hret   (unit : BitVec 4)
deriving DecidableEq, Repr

/-- The `op` of a trace event `Ret(op, R[0..3])`: an operation's name, or Illegal (R57, R90). -/
inductive OpName where
  | init | send | recv | sendb | recvb | seth | finit | fsend | frecv | solveb | solvet
  | rdsr | rddr | wrdr | hret | illegal
deriving DecidableEq, Repr

end Sys2Proof
end

