-- ==== Sys2Proof/WellFormed.lean ====
section
/-! DEFINITION. Which terms of Instr stand for a legal command word (R84, R89). -/

namespace Sys2Proof

/-- A term of Instr has a legal encoding. The fields' types already hold every bound of R77 to R80 but one:
SETH's SUB is an event kind, 0 to 6, and 7 to 15 make the word illegal (R79, R89). -/
def Instr.wf : Instr → Bool
  | .init _ => true
  | .send _ _ => true
  | .recv _ _ _ => true
  | .sendb _ _ => true
  | .recvb _ => true
  | .seth _ sub => decide (sub.toNat ≤ 6)
  | .finit => true
  | .fsend _ => true
  | .frecv => true
  | .solveb => true
  | .solvet => true
  | .rdsr _ => true
  | .rddr _ => true
  | .wrdr _ _ => true
  | .hret _ => true

end Sys2Proof
end

