-- ==== Sys2Proof/Decode.lean ====
section
/-! DEFINITION. The decoder of the 32-bit command word CMD32 (R77 to R80, R84, R89), total on every word and
rejecting by name; the opcode table as data (R84); the encoder, written from the same table; and the assembler spelling
(R95, R96). -/

namespace Sys2Proof

/-- Why a command word selects no row of the opcode table (R89, R90). -/
inductive Illegal where
  /-- No row has this OP. -/
  | unknownOp
  /-- The row's must-be-zero bits are not all zero. -/
  | mustBeZero
  /-- SETH with SUB in 7 to 15. -/
  | badKind
deriving DecidableEq, Repr

/-- What decoding a word gives. -/
inductive Decoded where
  | legal (i : Instr)
  | illegal (why : Illegal)
deriving DecidableEq, Repr

/-- `OP`, bits 31:24 (R77). -/
def fieldOp (w : Word) : BitVec 8 := w.extractLsb' 24 8
/-- `INST`, bits 23:20 (R77). -/
def fieldInst (w : Word) : BitVec 4 := w.extractLsb' 20 4
/-- `SUB`, bits 19:16 (R77). -/
def fieldSub (w : Word) : BitVec 4 := w.extractLsb' 16 4
/-- `IMM`, bits 15:0 (R77). -/
def fieldImm (w : Word) : BitVec 16 := w.extractLsb' 0 16
/-- `IMM[7:0]` (R80). -/
def fieldValue (w : Word) : BitVec 8 := w.extractLsb' 0 8

/-- Accept the instruction when the row's must-be-zero bits are zero. -/
def whenZero (zero : Bool) (i : Instr) : Decoded :=
  if zero then .legal i else .illegal .mustBeZero

/-- The decoding procedure of R89: read OP, then check the row's must-be-zero bits, then SETH's SUB. -/
def decode (w : Word) : Decoded :=
  let op := fieldOp w
  let unit := fieldInst w
  let sub := fieldSub w
  let imm := fieldImm w
  let noSub := decide (sub = 0#4)
  let noImm := decide (imm = 0#16)
  let noUnit := decide (unit = 0#4)
  let byteImm := decide (imm.extractLsb' 8 8 = 0#8)
  if op = 0x01#8 then whenZero (noSub && noImm) (.init unit)
  else if op = 0x02#8 then whenZero noSub (.send unit imm)
  else if op = 0x03#8 then
    whenZero (decide (sub.extractLsb' 1 3 = 0#3)) (.recv unit (sub.getLsbD 0) imm)
  else if op = 0x04#8 then whenZero (noSub && byteImm) (.sendb unit (fieldValue w))
  else if op = 0x05#8 then whenZero (noSub && noImm) (.recvb unit)
  else if op = 0x06#8 then
    if noImm then
      if sub.toNat ≤ 6 then .legal (.seth unit sub) else .illegal .badKind
    else .illegal .mustBeZero
  else if op = 0x08#8 then whenZero (noUnit && noSub && noImm) .finit
  else if op = 0x09#8 then whenZero (noUnit && noSub) (.fsend imm)
  else if op = 0x0A#8 then whenZero (noUnit && noSub && noImm) .frecv
  else if op = 0x10#8 then whenZero (noUnit && noSub && noImm) .solveb
  else if op = 0x11#8 then whenZero (noUnit && noSub && noImm) .solvet
  else if op = 0x20#8 then whenZero (noSub && noImm) (.rdsr unit)
  else if op = 0x21#8 then whenZero (noSub && noImm) (.rddr unit)
  else if op = 0x22#8 then whenZero (noSub && byteImm) (.wrdr unit (fieldValue w))
  else if op = 0x2F#8 then whenZero (noSub && noImm) (.hret unit)
  else .illegal .unknownOp

/-- The four fields of CMD32 put side by side, OP in the high bits (R77). -/
def cmd32 (op : BitVec 8) (unit sub : BitVec 4) (imm : BitVec 16) : Word :=
  op ++ unit ++ sub ++ imm

/-- The command word of an operation (R84, R95). -/
def encode : Instr → Word
  | .init u => cmd32 0x01#8 u 0#4 0#16
  | .send u len => cmd32 0x02#8 u 0#4 len
  | .recv u circ len => cmd32 0x03#8 u (if circ then 1#4 else 0#4) len
  | .sendb u v => cmd32 0x04#8 u 0#4 (0#8 ++ v)
  | .recvb u => cmd32 0x05#8 u 0#4 0#16
  | .seth u sub => cmd32 0x06#8 u sub 0#16
  | .finit => cmd32 0x08#8 0#4 0#4 0#16
  | .fsend len => cmd32 0x09#8 0#4 0#4 len
  | .frecv => cmd32 0x0A#8 0#4 0#4 0#16
  | .solveb => cmd32 0x10#8 0#4 0#4 0#16
  | .solvet => cmd32 0x11#8 0#4 0#4 0#16
  | .rdsr u => cmd32 0x20#8 u 0#4 0#16
  | .rddr u => cmd32 0x21#8 u 0#4 0#16
  | .wrdr u v => cmd32 0x22#8 u 0#4 (0#8 ++ v)
  | .hret u => cmd32 0x2F#8 u 0#4 0#16

/-- A row of the opcode table: the bits that must match, and their values (R84). -/
structure Row where
  pattern : Word
  mask    : Word
deriving DecidableEq, Repr

/-- The row of R84's table an operation belongs to. -/
def Instr.row : Instr → Row
  | .init _ => ⟨0x01000000#32, 0xFF0FFFFF#32⟩
  | .send _ _ => ⟨0x02000000#32, 0xFF0F0000#32⟩
  | .recv _ _ _ => ⟨0x03000000#32, 0xFF0E0000#32⟩
  | .sendb _ _ => ⟨0x04000000#32, 0xFF0FFF00#32⟩
  | .recvb _ => ⟨0x05000000#32, 0xFF0FFFFF#32⟩
  | .seth _ _ => ⟨0x06000000#32, 0xFF00FFFF#32⟩
  | .finit => ⟨0x08000000#32, 0xFFFFFFFF#32⟩
  | .fsend _ => ⟨0x09000000#32, 0xFFFF0000#32⟩
  | .frecv => ⟨0x0A000000#32, 0xFFFFFFFF#32⟩
  | .solveb => ⟨0x10000000#32, 0xFFFFFFFF#32⟩
  | .solvet => ⟨0x11000000#32, 0xFFFFFFFF#32⟩
  | .rdsr _ => ⟨0x20000000#32, 0xFF0FFFFF#32⟩
  | .rddr _ => ⟨0x21000000#32, 0xFF0FFFFF#32⟩
  | .wrdr _ _ => ⟨0x22000000#32, 0xFF0FFF00#32⟩
  | .hret _ => ⟨0x2F000000#32, 0xFF0FFFFF#32⟩

/-- The opcode table of R84, in its order: the row of each operation. -/
def opcodeTable : List Row :=
  [Instr.row (.init 0#4), Instr.row (.send 0#4 0#16), Instr.row (.recv 0#4 false 0#16),
   Instr.row (.sendb 0#4 0#8), Instr.row (.recvb 0#4), Instr.row (.seth 0#4 0#4), Instr.row .finit,
   Instr.row (.fsend 0#16), Instr.row .frecv, Instr.row .solveb, Instr.row .solvet,
   Instr.row (.rdsr 0#4), Instr.row (.rddr 0#4), Instr.row (.wrdr 0#4 0#8), Instr.row (.hret 0#4)]

/-- `w` has the row's fixed bits: `(w AND mask) = match` (R84). -/
def Row.selects (r : Row) (w : Word) : Bool := decide (w &&& r.mask = r.pattern)

/-- What the decoder reads from the low `nbits` bits of `w`, numbered as the opcode table numbers them; every
operation is one 32-bit command word, so a number that does not fit 32 bits is no instruction (R77, R93;
log entry 20). -/
def decodeTableWord (nbits w : Nat) : Option Instr :=
  let v := w % 2 ^ nbits
  if v < 2 ^ 32 then
    match decode (BitVec.ofNat 32 v) with
    | .legal i => some i
    | .illegal _ => none
  else none

/-- The pseudo-operation `CLRH u<i>, <kind>`: it is SETH of that unit and kind, issued with `A[0] = 0` (R96). -/
def Instr.clrh (unit sub : BitVec 4) : Instr := .seth unit sub

/-- The kind names of R95's SETH syntax; a SUB above 6 names no kind. -/
def kindSpelling (sub : BitVec 4) : String :=
  match sub.toNat with
  | 0 => "cts"
  | 1 => "brk"
  | 2 => "txe"
  | 3 => "txc"
  | 4 => "rxr"
  | 5 => "idle"
  | 6 => "pe"
  | _ => "?"

/-- The assembler text of an operation with its operand registers, numbers in decimal (R95). -/
def Instr.spelling (i : Instr) (a0 a1 : Word) : String :=
  let u (n : BitVec 4) : String := "u" ++ toString n.toNat
  let d (n : Nat) : String := toString n
  match i with
  | .init n => "INIT " ++ u n ++ ", baud=" ++ d a0.toNat ++ ", opts=" ++ d a1.toNat
  | .send n len => "SEND " ++ u n ++ ", len=" ++ d len.toNat ++ ", buf=" ++ d a0.toNat
  | .recv n c len =>
    "RECV " ++ u n ++ ", len=" ++ d len.toNat ++ ", buf=" ++ d a0.toNat ++ (if c then ", circ" else "")
  | .sendb n v => "SENDB " ++ u n ++ ", " ++ d v.toNat
  | .recvb n => "RECVB " ++ u n
  | .seth n k => "SETH " ++ u n ++ ", " ++ kindSpelling k ++ ", h=" ++ d a0.toNat
  | .finit => "FINIT baud=" ++ d a0.toNat
  | .fsend len => "FSEND len=" ++ d len.toNat ++ ", buf=" ++ d a0.toNat
  | .frecv => "FRECV buf=" ++ d a0.toNat
  | .solveb => "SOLVEB clk=" ++ d a0.toNat ++ ", target=" ++ d a1.toNat
  | .solvet => "SOLVET clk=" ++ d a0.toNat ++ ", target=" ++ d a1.toNat
  | .rdsr n => "RDSR " ++ u n
  | .rddr n => "RDDR " ++ u n
  | .wrdr n v => "WRDR " ++ u n ++ ", " ++ d v.toNat
  | .hret n => "HRET " ++ u n

end Sys2Proof
end

