-- ==== Sys2Proof/Config.lean ====
section
/-! DEFINITION. What is fixed for a run: the six names of the serial units, the configuration record
and its enumerations (R29, R85), the run's parameters (R9) and the solver constants (R10). -/

namespace Sys2Proof

/-- The six physical serial units, numbered 1 to 6 (R8, R78). -/
inductive Unit6 where
  | u1 | u2 | u3 | u4 | u5 | u6
deriving DecidableEq, Repr

/-- One value for each of the six units ("six parallel arrays indexed by instance", R25). -/
structure PerUnit (α : Type) where
  u1 : α
  u2 : α
  u3 : α
  u4 : α
  u5 : α
  u6 : α
deriving DecidableEq, Repr

/-- The same value for every unit. -/
def PerUnit.fill {α : Type} (x : α) : PerUnit α := ⟨x, x, x, x, x, x⟩

/-- The eight operating modes, codes 0 to 7 in this order (R29, R85). -/
inductive UartMode where
  | async | sync | irda | lin | smartcard | smartcardClock | halfDuplex | disabled
deriving DecidableEq, Repr

/-- Hardware flow control, codes 0 to 3 in this order (R29, R85). -/
inductive FlowControl where
  | none | cts | rts | ctsRts
deriving DecidableEq, Repr

/-- Stop bits, codes 0 to 3 for 0.5, 1, 1.5 and 2 (R29, R85). -/
inductive StopBits where
  | half | one | oneAndHalf | two
deriving DecidableEq, Repr

/-- The configuration record of a unit (R29). `ie` is the interrupt-enable bitset of R41 (bit 0 parity,
1 tx-empty, 2 tx-complete, 3 rx-ready, 4 idle-line, 5 line-break, 6 CTS, 7 error); `dmaen` is the
DMA-enable bitset of R42 (bit 0 rx, bit 1 tx). -/
structure UartConfig where
  baud  : Word
  mode  : UartMode
  flow  : FlowControl
  stop  : StopBits
  ie    : BitVec 8
  dmaen : BitVec 2
deriving DecidableEq, Repr

/-- The parameters of R9, constant for a whole run. R9 makes the two predicates arguments of the model; here
each is plain data that can stand for every such predicate: `unsupported` lists the configuration records on
which MODE_SUPPORTED is false (there are finitely many records), `unbacked` lists the half-open address ranges
on which MEM_VALID is false (there are finitely many addresses); log entry 6. -/
structure Params where
  /-- `PCLK[i]`: the reference clock of each unit, in hertz. -/
  pclk        : PerUnit Word
  /-- `FRAME_INST`: the unit the framing protocol is built on. -/
  frameUnit   : Unit6
  /-- `FRAME_CAP`: the capacity C of the ReceptionWindow in bytes, 1 to 65535. -/
  frameCap    : Half
  /-- `WIN_BASE`: the first address of the ReceptionWindow. -/
  winBase     : Word
  /-- Where `MODE_SUPPORTED` is false. -/
  unsupported : List UartConfig
  /-- Where `MEM_VALID` is false: ranges from the first number up to, not including, the second. -/
  unbacked    : List (Nat × Nat)
  /-- `PRIO_RX`: stored in a receive descriptor, without effect. -/
  prioRx      : BitVec 2
  /-- `PRIO_TX`: stored in a transmit descriptor, without effect. -/
  prioTx      : BitVec 2
deriving DecidableEq, Repr

/-- The range R9 gives FRAME_CAP: at least 1 (its 16 bits give the upper bound 65535). -/
def Params.wf (p : Params) : Bool := decide (1 ≤ p.frameCap.toNat)

/-- The defaults of R9, "the default the spec's examples use". -/
def Params.default : Params where
  pclk        := PerUnit.fill 42000000#32
  frameUnit   := .u2
  frameCap    := 300#16
  winBase     := 0x20000000#32
  unsupported := []
  unbacked    := []
  prioRx      := 0#2
  prioTx      := 0#2

/-- Oversampling of the baud variant (R10). -/
def oversampling : Nat := 16
/-- Sub-steps of the fractional part of a baud divisor (R10). -/
def fracSteps : Nat := 16
/-- The least baud divisor (R10, R105). -/
def brrMin : Nat := 16
/-- The greatest baud divisor (R10, R105). -/
def brrMax : Nat := 65535
/-- The greatest coarse divisor of the timer variant (R10, R108). -/
def coarseMax : Nat := 65536
/-- The greatest fine divisor of the timer variant (R10, R108). -/
def fineMax : Nat := 65536

end Sys2Proof
end

