-- ==== Sys2Proof/Machine/State.lean ====
section
/-! DEFINITION. The state of the block as plain data (R25 to R52), the observation trace (R57), the moves of
the agents (R16) with the schedule that says which agent steps next, the reasons a step stops, and the state
after reset (R56). -/

namespace Sys2Proof.Machine

/-- The event kinds in the dispatcher's fixed servicing order, numbers 0 to 6 (R86, R211). -/
inductive EventKind where
  | cts | brk | txe | txc | rxr | idle | pe
deriving DecidableEq, Repr

/-- One value for each event kind (R43). -/
structure PerKind (α : Type) where
  cts  : α
  brk  : α
  txe  : α
  txc  : α
  rxr  : α
  idle : α
  pe   : α
deriving DecidableEq, Repr

/-- The two directions of a unit, RX = 0 and TX = 1 (R8, R87). -/
inductive Dir where
  | rx | tx
deriving DecidableEq, Repr

/-- One value for each direction. -/
structure PerDir (α : Type) where
  rx : α
  tx : α
deriving DecidableEq, Repr

/-- A slot of the handler table (R43). -/
inductive Slot where
  /-- `NONE`: no handler registered. -/
  | empty
  /-- `FRAME`: the block's own idle-line framing handler. -/
  | frame
  /-- `EXT(h)`: the host's handler named by the token h. -/
  | ext (h : Word)
deriving DecidableEq, Repr

/-- The six steps F0 to F5 of the framing handler (R175). -/
inductive FrameStep where
  | f0 | f1 | f2 | f3 | f4 | f5
deriving DecidableEq, Repr

/-- `DSP[i].phase` (R46). -/
inductive DspPhase where
  | idle
  | scan (k : EventKind)
  | inHandler (k : EventKind)
  | frame (f : FrameStep)
deriving DecidableEq, Repr

/-- `DSP[i]`: the dispatcher sequencer of a unit (R46). -/
structure Dsp where
  phase : DspPhase
  snap  : BitVec 7
  flen  : Half
deriving DecidableEq, Repr

/-- `dir` of a transfer descriptor, codes 0, 1 and 2 (R47, R87; log entry 19). -/
inductive XferDir where
  | periphToMem | memToPeriph | memToMem
deriving DecidableEq, Repr

/-- A side of a transfer descriptor: a memory address, or the token `DR(i)` (R47, R60). -/
inductive Endpoint where
  | mem (a : Word)
  | dr (i : Unit6)
deriving DecidableEq, Repr

/-- `CH[i][d]`: a DMA channel, its seven configured fields (R47) and its four live fields (R48). -/
structure Chan where
  dir    : XferDir
  width  : BitVec 2
  src    : Endpoint
  dst    : Endpoint
  len    : Half
  circ   : Bool
  prio   : BitVec 2
  cnt    : Half
  off    : Half
  active : Bool
  done   : Bool
deriving DecidableEq, Repr

/-- `BusFault(a)`, the record of an access at an address with MEM_VALID false (R61, R62, R238). The agent that made the
access is stuck from that step on; every other agent goes on (log entry 8). -/
structure BusFault where
  addr : Word
deriving DecidableEq, Repr

/-- All the state of one serial unit (R25, R28 to R48), with the faults recorded of its two channels (R61). -/
structure Uart where
  /-- `CFGV[i]` (R28). -/
  cfgv   : Bool
  /-- `CFG[i]` (R29, R41, R42). -/
  cfg    : UartConfig
  /-- `BRR[i]` (R30). -/
  brr    : Half
  /-- `SR[i]`: bit k is the flag of event kind k (R31). -/
  sr     : BitVec 7
  /-- `TDR[i]` (R39). -/
  tdr    : Byte
  /-- `RDR[i]` (R39). -/
  rdr    : Byte
  /-- `RXACT[i]` (R40). -/
  rxact  : Bool
  /-- `HSLOT[i][0..6]` (R43). -/
  hslot  : PerKind Slot
  /-- `SIG[i][RX]`, `SIG[i][TX]` (R44). -/
  sig    : PerDir Bool
  /-- `MASKED[i]` (R45). -/
  masked : Bool
  /-- `DSP[i]` (R46). -/
  dsp    : Dsp
  /-- `CH[i][RX]`, `CH[i][TX]` (R47, R48). -/
  ch     : PerDir Chan
  /-- The BusFault that made channel CH[i][d] stuck, if one did (R61, R62, R238). -/
  chFault : PerDir (Option BusFault)
deriving DecidableEq, Repr

/-- `FRAME.state` (R50). -/
inductive FrameState where
  | armed | frameCaptured
deriving DecidableEq, Repr

/-- The single `FRAME` record (R50). -/
structure FrameRec where
  init  : Bool
  state : FrameState
  len   : Half
deriving DecidableEq, Repr

/-- Four 32-bit registers: the operand registers A[0..3] or the result registers R[0..3] (R26). -/
structure Quad where
  q0 : Word
  q1 : Word
  q2 : Word
  q3 : Word
deriving DecidableEq, Repr

/-- A foreground operation in progress with its latched operands, for the six operations that take more than
one step (R27). -/
inductive FgOp where
  | send  (i : Unit6) (len : Half) (buf : Word)
  | recv  (i : Unit6) (circ : Bool) (len : Half) (buf : Word)
  | sendb (i : Unit6) (value : Byte)
  | recvb (i : Unit6)
  | fsend (len : Half) (buf : Word)
  | frecv (buf : Word)
deriving DecidableEq, Repr

/-- `FG.phase`: the labels of the operations' pseudocode (R27, R121 to R124, R173). -/
inductive FgPhase where
  | s0 | p1 | p2 | p3 | d1 | d2 | d3 | w1 | w2 | c1 | c2
deriving DecidableEq, Repr

/-- `FG`: the foreground sequencer (R27). -/
structure Fg where
  op    : Option FgOp
  phase : FgPhase
  k     : Half
  n     : Half
deriving DecidableEq, Repr

/-- System memory: the listed bytes, addresses strictly rising, none listed with the value an unlisted address
reads as (R52). -/
abbrev Memory := List Host.Cell

/-- An event of the observation trace (R57; log entry 18). -/
inductive Ev where
  | tx (i : Unit6) (b : Byte)
  | handlerCall (i : Unit6) (k : EventKind) (h : Word)
  | trigger (i : Unit6) (d : Dir)
  | ret (op : OpName) (r : Quad)
deriving DecidableEq, Repr

/-- One move of one agent (R16): the choice of which agent steps, with what the environment supplies (R53). -/
inductive Move where
  /-- The host writes operand register A[n] (R26). -/
  | hostOperand (n : Fin 4) (v : Word)
  /-- The host stores a byte to system memory (R52, R55). -/
  | hostStore (a : Word) (b : Byte)
  /-- The host writes CMD, which presents an operation (R75). -/
  | hostCommand (w : Word)
  /-- The foreground context takes the next step of the operation in progress (R16, R17). -/
  | foreground
  /-- Dispatcher DSP[i] takes its next step (R213 to R221, R176 to R182). -/
  | dispatcher (i : Unit6)
  /-- TxMove(i) of channel CH[i][TX] (R134). -/
  | txMove (i : Unit6)
  /-- DmaDone(i, d), the completion callback of channel CH[i][d] (R135). -/
  | dmaDone (i : Unit6) (d : Dir)
  /-- RxByte(i, b) of the line agent (R197). -/
  | rxByte (i : Unit6) (b : Byte)
  /-- IdleEvent(i) of the line agent (R198). -/
  | idleEvent (i : Unit6)
  /-- TxShift(i) of the line agent (R199). -/
  | txShift (i : Unit6)
  /-- CtsEvent(i) of the line agent (R201). -/
  | ctsEvent (i : Unit6)
  /-- BreakEvent(i) of the line agent (R202). -/
  | breakEvent (i : Unit6)
  /-- ParityEvent(i) of the line agent (R203). -/
  | parityEvent (i : Unit6)
deriving DecidableEq, Repr

/-- Why the machine stops with a fault: safe, since nothing is claimed of the run from there on. A BusFault is none of
these: it is recorded in State, and only the agent that made the access is stuck (R61, R62, R238). -/
inductive Fault where
  /-- A DMA move whose memory side holds no memory address; the block writes no such descriptor (R47, R91), so no
  run from reset reaches it (log entry 9). Raised by the receive service and by TxMove. Safe. -/
  | reservedDescriptor (i : Unit6) (d : Dir)
deriving DecidableEq, Repr

/-- Why the model gives a request no meaning (R24: "toward unprovable"; log entry 10). All are safe. -/
inductive Refusal where
  /-- An instruction that has no meaning in this model. Raised by exec's arms alone. Safe. -/
  | notModelled (mnemonic : String)
  /-- A command presented while a foreground operation is in progress (R20, R94; U2). Raised by every operation. Safe. -/
  | busy
  /-- A foreground-only operation presented in the interrupt context (R94, R222; U5). Safe. -/
  | interruptContext
  /-- The host has no move: dispatchers run and none is in a handler (R94; U5), or a BusFault made the context it is in
  stuck (R61, R238; U7). Raised by every host move. Safe. -/
  | hostHasNoMove
  /-- INIT or FINIT of a unit that is already bound (R158; U3). Safe. -/
  | rebind (i : Unit6)
  /-- Arming a channel that is active or has a completion pending (R138; U1). Raised by SEND, RECV, FSEND and FINIT. Safe. -/
  | overlap (i : Unit6) (d : Dir)
  /-- The schedule names a move whose guard does not hold: the step relation has no such step (R17, R19,
  R196; log entry 7). Safe. -/
  | notEnabled (m : Move)
deriving DecidableEq, Repr

/-- The whole state: the run's parameters, the state of the block (R25), the observation trace (R57) and the
schedule, which says which agent steps next and what the environment supplies (R19, R53). -/
structure State where
  /-- The parameters of R9; no step writes them. -/
  par   : Params
  /-- `CMD` (R26). -/
  cmd   : Word
  /-- `A[0..3]` (R26). -/
  a     : Quad
  /-- `R[0..3]` (R26). -/
  r     : Quad
  /-- `FG` (R27). -/
  fg    : Fg
  /-- The six serial units (R28 to R48). -/
  uarts : PerUnit Uart
  /-- `FRAME` (R50). -/
  frame : FrameRec
  /-- `MEM` (R52). -/
  mem   : Memory
  /-- The BusFault that made the foreground context stuck, if one did (R16, R61, R62, R238). -/
  fgFault : Option BusFault
  /-- The BusFault that made the interrupt context of the host stuck, if one did (R16, R62, R238; log entry 11). -/
  handlerFault : Option BusFault
  /-- The observation trace, oldest event first (R57). -/
  trace : List Ev
  /-- The moves still to be taken, the next one first (R19, R53). -/
  sched : List Move
deriving DecidableEq, Repr

/-- A channel after reset: not active, no completion pending (R56); the other fields are DESIGN CHOICE zeros
(log entry 1). -/
def Chan.reset : Chan where
  dir    := .periphToMem
  width  := 0#2
  src    := .mem 0#32
  dst    := .mem 0#32
  len    := 0#16
  circ   := false
  prio   := 0#2
  cnt    := 0#16
  off    := 0#16
  active := false
  done   := false

/-- A serial unit after reset (R56); CFG, BRR, TDR, RDR, snap and flen are DESIGN CHOICE zeros (log entry 1). -/
def Uart.reset : Uart where
  cfgv   := false
  cfg    := ⟨0#32, .async, .none, .half, 0#8, 0#2⟩
  brr    := 0#16
  sr     := 0#7
  tdr    := 0#8
  rdr    := 0#8
  rxact  := false
  hslot  := ⟨.empty, .empty, .empty, .empty, .empty, .empty, .empty⟩
  sig    := ⟨false, false⟩
  masked := false
  dsp    := ⟨.idle, 0#7, 0#16⟩
  ch     := ⟨Chan.reset, Chan.reset⟩
  chFault := ⟨none, none⟩

/-- The state after reset under given parameters (R56, R245), with no move scheduled. FG.phase, FG.k, FG.n,
FRAME.state and FRAME.len are DESIGN CHOICE values (log entry 1). -/
def State.resetWith (p : Params) : State where
  par   := p
  cmd   := 0#32
  a     := ⟨0#32, 0#32, 0#32, 0#32⟩
  r     := ⟨0#32, 0#32, 0#32, 0#32⟩
  fg    := ⟨none, .s0, 0#16, 0#16⟩
  uarts := PerUnit.fill Uart.reset
  frame := ⟨false, .armed, 0#16⟩
  mem   := []
  fgFault := none
  handlerFault := none
  trace := []
  sched := []

/-- The state after reset, with R9's default parameters. -/
def State.reset : State := State.resetWith Params.default

end Sys2Proof.Machine
end

