-- ==== Sys2Proof/Machine/Flags.lean ====
section
/-! DEFINITION. The status flags: the bits of SR[i] (R31), the enable bits of CFG[i].ie that match them (R41,
R211), the interrupt request (R212), and the side effects of the data registers on the flags (R39). -/

namespace Sys2Proof.Machine

/-- The number of an event kind: its flag's bit in SR[i] and its place in the servicing order (R86). -/
def EventKind.num : EventKind → Nat
  | .cts => 0
  | .brk => 1
  | .txe => 2
  | .txc => 3
  | .rxr => 4
  | .idle => 5
  | .pe => 6

/-- The kind serviced after a kind, none after parity-error (R214). -/
def EventKind.succ : EventKind → Option EventKind
  | .cts => some .brk
  | .brk => some .txe
  | .txe => some .txc
  | .txc => some .rxr
  | .rxr => some .idle
  | .idle => some .pe
  | .pe => none

/-- e(k): the bit of CFG[i].ie that enables an event kind (R41, R212). -/
def EventKind.enableBit : EventKind → Nat
  | .cts => 6
  | .brk => 5
  | .txe => 1
  | .txc => 2
  | .rxr => 3
  | .idle => 4
  | .pe => 0

/-- The flag of a kind in a status value (R31). -/
def flag (sr : BitVec 7) (k : EventKind) : Bool := sr.getLsbD k.num

/-- A status value with one flag set. -/
def setFlag (sr : BitVec 7) (k : EventKind) : BitVec 7 := sr ||| (1#7 <<< k.num)

/-- A status value with one flag cleared. -/
def clearFlag (sr : BitVec 7) (k : EventKind) : BitVec 7 := sr &&& ~~~(1#7 <<< k.num)

/-- The status INIT writes: `txe` and `txc` set, the other five clear (R151). -/
def srStart : BitVec 7 := 0b0001100#7

/-- en(i, k): is an event kind enabled by an interrupt-enable mask? (R212) -/
def enables (ie : BitVec 8) (k : EventKind) : Bool := ie.getLsbD k.enableBit

/-- Is some flag set whose enable bit is set? Bit 7 of the mask enters nowhere (R212). -/
def requests (sr : BitVec 7) (ie : BitVec 8) : Bool :=
  (flag sr .cts && enables ie .cts) || (flag sr .brk && enables ie .brk) ||
  (flag sr .txe && enables ie .txe) || (flag sr .txc && enables ie .txc) ||
  (flag sr .rxr && enables ie .rxr) || (flag sr .idle && enables ie .idle) ||
  (flag sr .pe && enables ie .pe)

/-- irq[i]: the interrupt request, a level computed from the unit's state (R212). -/
def Uart.irq (u : Uart) : Bool := u.cfgv && !u.masked && requests u.sr u.cfg.ie

/-- `CFG[i].dmaen.rx` (R42). -/
def Uart.dmaRx (u : Uart) : Bool := u.cfg.dmaen.getLsbD 0

/-- `CFG[i].dmaen.tx` (R42). -/
def Uart.dmaTx (u : Uart) : Bool := u.cfg.dmaen.getLsbD 1

/-- Bound and not disabled: CheckInst's test on a unit (R125) and the line agent's common guard (R196). -/
def Uart.usable (u : Uart) : Bool := u.cfgv && decide (u.cfg.mode ≠ .disabled)

/-- An event of a kind: its flag is set and nothing else changes (R201 to R203). -/
def Uart.raiseFlag (u : Uart) (k : EventKind) : Uart := { u with sr := setFlag u.sr k }

/-- A write of TDR[i], which clears `txe` and `txc` (R39). -/
def Uart.writeTdr (u : Uart) (b : Byte) : Uart :=
  { u with tdr := b, sr := clearFlag (clearFlag u.sr .txe) .txc }

/-- The side effect of a read of RDR[i]: `rxr` is cleared (R39). -/
def Uart.takeRdr (u : Uart) : Uart := { u with sr := clearFlag u.sr .rxr }

end Sys2Proof.Machine
end

