-- ==== Sys2Proof/Machine/Operands.lean ====
section
/-! DEFINITION. The operand forms: the INST field (R78), SETH's event kind (R79, R86), INIT's packed options
word (R82) with the codes of R85, the handler token (R88), and the address of a buffer byte (R67). -/

namespace Sys2Proof.Machine

/-- The unit an INST field names; 0 and 7 to 15 name none (R78). -/
def unitOf (inst : BitVec 4) : Option Unit6 :=
  match inst.toNat with
  | 1 => some .u1
  | 2 => some .u2
  | 3 => some .u3
  | 4 => some .u4
  | 5 => some .u5
  | 6 => some .u6
  | _ => none

/-- The number of a unit (R78). -/
def unitNumber : Unit6 → BitVec 4
  | .u1 => 1#4
  | .u2 => 2#4
  | .u3 => 3#4
  | .u4 => 4#4
  | .u5 => 5#4
  | .u6 => 6#4

/-- The event kind a SUB field names; 7 to 15 name none (R79, R86). -/
def kindOf (sub : BitVec 4) : Option EventKind :=
  match sub.toNat with
  | 0 => some .cts
  | 1 => some .brk
  | 2 => some .txe
  | 3 => some .txc
  | 4 => some .rxr
  | 5 => some .idle
  | 6 => some .pe
  | _ => none

/-- The operating mode of a code (R85); every code is defined. -/
def modeOf (c : BitVec 3) : UartMode :=
  match c.toNat with
  | 0 => .async
  | 1 => .sync
  | 2 => .irda
  | 3 => .lin
  | 4 => .smartcard
  | 5 => .smartcardClock
  | 6 => .halfDuplex
  | _ => .disabled

/-- The flow-control setting of a code (R85). -/
def flowOf (c : BitVec 2) : FlowControl :=
  match c.toNat with
  | 0 => .none
  | 1 => .cts
  | 2 => .rts
  | _ => .ctsRts

/-- The stop-bit setting of a code (R85). -/
def stopOf (c : BitVec 2) : StopBits :=
  match c.toNat with
  | 0 => .half
  | 1 => .one
  | 2 => .oneAndHalf
  | _ => .two

/-- `A[1][31:17]`, which must be 0 (R82). -/
def optionsReserved (opts : Word) : BitVec 15 := opts.extractLsb' 17 15

/-- The configuration record of a baud rate and a packed options word (R82). -/
def unpackOptions (baud opts : Word) : UartConfig where
  baud  := baud
  mode  := modeOf (opts.extractLsb' 0 3)
  flow  := flowOf (opts.extractLsb' 3 2)
  stop  := stopOf (opts.extractLsb' 5 2)
  ie    := opts.extractLsb' 7 8
  dmaen := opts.extractLsb' 15 2

/-- FINIT's fixed options word: mode 6, no flow control, one stop bit, idle-line only, both DMA directions (R171, R184). -/
def framingOptions : Word := 0x00018826#32

/-- MODE_SUPPORTED(cfg) (R9). -/
def modeSupported (p : Params) (c : UartConfig) : Bool := !(p.unsupported.contains c)

/-- The slot a handler token stores: 0 is NONE, any other h is EXT(h) (R88). -/
def slotOfToken (h : Word) : Slot := if h = 0#32 then .empty else .ext h

/-- The address of byte k of a buffer: (base + k) mod 2^32 (R67). -/
def byteAddr (base : Word) (k : Half) : Word := base + k.setWidth 32

end Sys2Proof.Machine
end

