-- ==== Sys2Proof/Machine/Ops.lean ====
section
/-! DEFINITION. The named operations over memory, registers and units that every meaning and every agent step is
built from: byte access (R60 to R62), results and errors (R75, R83, R231), the contexts (R94, R240), the
dispatcher's entry and return (R213, R218 to R220), and the channel interface (R130 to R133). -/

namespace Sys2Proof

/-! ### One value for each unit -/

/-- The value of one unit. -/
def PerUnit.get {α : Type} (v : PerUnit α) : Unit6 → α
  | .u1 => v.u1
  | .u2 => v.u2
  | .u3 => v.u3
  | .u4 => v.u4
  | .u5 => v.u5
  | .u6 => v.u6

/-- Replace the value of one unit and of no other. -/
def PerUnit.set {α : Type} (v : PerUnit α) (i : Unit6) (x : α) : PerUnit α :=
  match i with
  | .u1 => { v with u1 := x }
  | .u2 => { v with u2 := x }
  | .u3 => { v with u3 := x }
  | .u4 => { v with u4 := x }
  | .u5 => { v with u5 := x }
  | .u6 => { v with u6 := x }

/-- Does some unit's value pass the test? -/
def PerUnit.any {α : Type} (v : PerUnit α) (f : α → Bool) : Bool :=
  f v.u1 || f v.u2 || f v.u3 || f v.u4 || f v.u5 || f v.u6

/-- Does every unit's value pass the test? -/
def PerUnit.all {α : Type} (v : PerUnit α) (f : α → Bool) : Bool :=
  f v.u1 && f v.u2 && f v.u3 && f v.u4 && f v.u5 && f v.u6

end Sys2Proof

namespace Sys2Proof.Machine

/-- The outcome of a step of this machine. -/
abbrev Out := Host.Outcome State Fault Refusal

/-- Go on from a next state; a fault or a refusal ends the step. -/
def Out.andThen (o : Out) (k : State → Out) : Out :=
  match o with
  | .next s => k s
  | .fault f => .fault f
  | .refused r => .refused r

/-! ### Memory -/

/-- What an address no cell lists reads as: DESIGN CHOICE 0 (log entry 2; R56 leaves every byte unspecified). -/
def unlistedByte : Byte := 0#8

/-- The byte at an address. -/
def Memory.read : Memory → Nat → Byte
  | [], _ => unlistedByte
  | (a, b) :: m, x => if x = a then b else Memory.read m x

/-- Put a cell before the cells of higher addresses, listing it only if it differs from an unlisted byte. -/
def Memory.consCell (x : Nat) (v : Byte) (m : Memory) : Memory :=
  if v = unlistedByte then m else (x, v) :: m

/-- Store a byte at an address, keeping the canonical form. -/
def Memory.write : Memory → Nat → Byte → Memory
  | [], x, v => Memory.consCell x v []
  | (a, b) :: m, x, v =>
    if x < a then Memory.consCell x v ((a, b) :: m)
    else if x = a then Memory.consCell x v m
    else (a, b) :: Memory.write m x v

/-- The canonical form: addresses strictly rising and below 2^32, no cell with the unlisted value. -/
abbrev Memory.wf (m : Memory) : Prop :=
  m.Pairwise (fun c d => c.1 < d.1) ∧ ∀ c ∈ m, c.1 < 2 ^ 32 ∧ c.2 ≠ unlistedByte

/-- MEM_VALID(a) (R9, R61). -/
def memValid (p : Params) (a : Word) : Bool :=
  !(p.unbacked.any fun range => decide (range.1 ≤ a.toNat) && decide (a.toNat < range.2))

/-- MemRead(a, 1) (R61). -/
def memRead (p : Params) (m : Memory) (a : Word) : Except BusFault Byte :=
  if memValid p a then .ok (m.read a.toNat) else .error ⟨a⟩

/-- MemWrite(a, 1, v) (R62). -/
def memWrite (p : Params) (m : Memory) (a : Word) (v : Byte) : Except BusFault Memory :=
  if memValid p a then .ok (m.write a.toNat v) else .error ⟨a⟩

/-! ### Units, directions, kinds -/

/-- The state of one unit. -/
def State.uart (s : State) (i : Unit6) : Uart := s.uarts.get i

/-- Replace the state of one unit. -/
def State.setUart (s : State) (i : Unit6) (u : Uart) : State := { s with uarts := s.uarts.set i u }

/-- The value of one direction. -/
def PerDir.get {α : Type} (v : PerDir α) : Dir → α
  | .rx => v.rx
  | .tx => v.tx

/-- Replace the value of one direction. -/
def PerDir.set {α : Type} (v : PerDir α) (d : Dir) (x : α) : PerDir α :=
  match d with
  | .rx => { v with rx := x }
  | .tx => { v with tx := x }

/-- The value of one event kind. -/
def PerKind.get {α : Type} (v : PerKind α) : EventKind → α
  | .cts => v.cts
  | .brk => v.brk
  | .txe => v.txe
  | .txc => v.txc
  | .rxr => v.rxr
  | .idle => v.idle
  | .pe => v.pe

/-- Replace the value of one event kind. -/
def PerKind.set {α : Type} (v : PerKind α) (k : EventKind) (x : α) : PerKind α :=
  match k with
  | .cts => { v with cts := x }
  | .brk => { v with brk := x }
  | .txe => { v with txe := x }
  | .txc => { v with txc := x }
  | .rxr => { v with rxr := x }
  | .idle => { v with idle := x }
  | .pe => { v with pe := x }

/-- Set CompletionSignal SIG[i][d] (R44). -/
def Uart.setSig (u : Uart) (d : Dir) (b : Bool) : Uart := { u with sig := u.sig.set d b }

/-- Replace channel CH[i][d]. -/
def Uart.setCh (u : Uart) (d : Dir) (c : Chan) : Uart := { u with ch := u.ch.set d c }

/-- Channel CH[i][d] is stuck from here on: its BusFault is recorded (R61, R62, R238). -/
def Uart.stickCh (u : Uart) (d : Dir) (f : BusFault) : Uart := { u with chFault := u.chFault.set d (some f) }

/-- Is channel CH[i][d] stuck (R61, R238)? -/
def Uart.chStuck (u : Uart) (d : Dir) : Bool := (u.chFault.get d).isSome

/-- Move dispatcher DSP[i] to a phase. -/
def Uart.setPhase (u : Uart) (p : DspPhase) : Uart := { u with dsp := { u.dsp with phase := p } }

/-- Register a handler slot (R43). -/
def Uart.setSlot (u : Uart) (k : EventKind) (x : Slot) : Uart := { u with hslot := u.hslot.set k x }

/-! ### Results, errors, the foreground sequencer -/

/-- Append an event to the observation trace (R57). -/
def State.emit (s : State) (e : Ev) : State := { s with trace := s.trace ++ [e] }

/-- The end of an operation: its results are written and `Ret(op, R[0..3])` is emitted in the same step (R75). -/
def State.retAll (s : State) (op : OpName) (r : Quad) : State := { s with r := r }.emit (.ret op r)

/-- The end of an operation that writes R[0] only (R26, R81). -/
def State.ret (s : State) (op : OpName) (v : Word) : State := s.retAll op { s.r with q0 := v }

/-- A synchronous error: R[0] takes -1 and the operation ends (R231, R232). -/
def State.raise (s : State) (op : OpName) : State := s.ret op minusOne

/-- The end of a foreground operation in progress: FG.op returns to None in the step that writes R[0] (R27);
the other fields of FG keep their values (log entry 13). -/
def State.endFg (s : State) (op : OpName) (v : Word) : State :=
  { s with fg := { s.fg with op := none } }.ret op v

/-- The foreground operation goes to a label of its pseudocode. -/
def State.goto (s : State) (p : FgPhase) : State := { s with fg := { s.fg with phase := p } }

/-- A foreground operation is in progress from a label on, its operands latched (R27). -/
def State.startFg (s : State) (op : FgOp) (p : FgPhase) : State :=
  { s with fg := { s.fg with op := some op, phase := p } }

/-- FG.k. -/
def State.setK (s : State) (k : Half) : State := { s with fg := { s.fg with k := k } }

/-- FG.n. -/
def State.setN (s : State) (n : Half) : State := { s with fg := { s.fg with n := n } }

/-! ### Contexts and acceptance -/

/-- Every dispatcher is Idle: the foreground context (R240). -/
def State.allIdle (s : State) : Bool := s.uarts.all fun u => decide (u.dsp.phase = .idle)

/-- Is this dispatcher phase InHandler(k)? -/
def DspPhase.isHandler : DspPhase → Bool
  | .idle => false
  | .scan _ => false
  | .inHandler _ => true
  | .frame _ => false

/-- Some dispatcher is in an external handler: the interrupt context (R240). -/
def State.someHandler (s : State) : Bool := s.uarts.any fun u => u.dsp.phase.isHandler

/-- The foreground context may step: every dispatcher is Idle (R17) and no BusFault made it stuck (R61, R238). -/
def State.foregroundMayAct (s : State) : Bool := s.allIdle && s.fgFault.isNone

/-- The interrupt context may step: some dispatcher is in a handler and no BusFault made it stuck (R61, R222). -/
def State.handlerMayAct (s : State) : Bool := s.someHandler && s.handlerFault.isNone

/-- The host has a move: in the foreground or in the interrupt context, if that context is not stuck (R94, R61). -/
def State.hostMayAct (s : State) : Bool := s.foregroundMayAct || s.handlerMayAct

/-- The foreground context is stuck from here on: its BusFault is recorded (R61, R62, R238). -/
def State.stickForeground (s : State) (f : BusFault) : State := { s with fgFault := some f }

/-- The host's context is stuck from here on: the foreground where every dispatcher is Idle, else the interrupt
context (R16, R62; log entry 11). -/
def State.stickHost (s : State) (f : BusFault) : State :=
  if s.allIdle then s.stickForeground f else { s with handlerFault := some f }

/-- Acceptance of a foreground-only operation (R94): every dispatcher Idle, no operation in progress, and the
foreground not stuck (R61). -/
def acceptForeground (s : State) (k : State → Out) : Out :=
  if s.allIdle then
    if s.fg.op.isSome then .refused .busy
    else if s.foregroundMayAct then k s
    else .refused .hostHasNoMove
  else if s.someHandler then .refused .interruptContext
  else .refused .hostHasNoMove

/-- Acceptance of an operation both contexts may issue (R94): RDSR, RDDR, WRDR, HRET. -/
def acceptAny (s : State) (k : State → Out) : Out :=
  if s.allIdle then acceptForeground s k
  else if s.handlerMayAct then k s
  else .refused .hostHasNoMove

/-- An illegal command word: R[0] takes -1, `Ret(Illegal, ...)` is emitted, and nothing else changes (R90);
log entry 5 says in which situations. -/
def illegalCommand (s : State) : Out :=
  if s.hostMayAct then .next (s.raise .illegal) else .refused .hostHasNoMove

/-! ### Taking an interrupt and returning from one -/

/-- DispatchEnter(i), trap entry: the status register is read once into the snapshot and the scan begins (R213). -/
def Uart.dispatchEnter (u : Uart) : Uart := { u with dsp := { u.dsp with phase := .scan .cts, snap := u.sr } }

/-- The phase after kind k: the scan of the next kind, or Idle after the last (R214). -/
def nextPhase (k : EventKind) : DspPhase :=
  match k.succ with
  | some k' => .scan k'
  | none => .idle

/-- Advance(i, k): on to the next kind, or back to Idle after the last, which is the return (R214, R220). -/
def Uart.advance (u : Uart) (k : EventKind) : Uart := u.setPhase (nextPhase k)

/-- Clear(i, k), the dispatcher's clear action: no effect on `txe`, the live flag cleared for the other kinds (R219). -/
def Uart.clearKind (u : Uart) (k : EventKind) : Uart :=
  if k = .txe then u else { u with sr := clearFlag u.sr k }

/-- Finish(i, k): Clear then Advance (R218). -/
def Uart.finish (u : Uart) (k : EventKind) : Uart := (u.clearKind k).advance k

/-! ### The DMA channel interface -/

/-- Has the channel a transfer outstanding? Arming or triggering it then is an overlap (R138). -/
def Chan.outstanding (c : Chan) : Bool := c.active || c.done

/-- Arm: the seven configured fields are overwritten, `cnt`, `off` and `done` are loaded, `active` stays (R130).
The block writes width 0 (byte) only (R47). -/
def Chan.arm (c : Chan) (dir : XferDir) (src dst : Endpoint) (len : Half) (circ : Bool) (prio : BitVec 2) : Chan :=
  { c with dir := dir, width := 0#2, src := src, dst := dst, len := len, circ := circ, prio := prio,
           cnt := len, off := 0#16, done := false }

/-- One byte moved by a receive stream: the counter decrements modulo 2^16; the offset wraps at `len` in circular
mode (log entry 12 for a length of 0); a one-shot transfer completes at 0 (R133, R137). -/
def Chan.rxAdvance (c : Chan) : Chan :=
  let c1 := { c with cnt := c.cnt - 1#16 }
  if c.circ then { c1 with off := BitVec.ofNat 16 ((c.off.toNat + 1) % c.len.toNat) }
  else
    let c2 := { c1 with off := c.off + 1#16 }
    if c2.cnt = 0#16 then { c2 with active := false, done := true } else c2

/-- One byte moved by the transmit stream (R134). -/
def Chan.txAdvance (c : Chan) : Chan :=
  let c1 := { c with off := c.off + 1#16, cnt := c.cnt - 1#16 }
  if c1.cnt = 0#16 then { c1 with active := false, done := true } else c1

/-- RxService(i) on a unit and memory: an active stream takes the byte waiting in RDR[i] to memory (R133). An invalid
address makes the channel stuck with its BusFault recorded and moves nothing, and a stuck channel moves nothing (R62,
R238). The step that holds the service keeps its other effects (log entry 8). -/
def rxService (p : Params) (i : Unit6) (u : Uart) (m : Memory) : Except Fault (Uart × Memory) :=
  let c := u.ch.rx
  if u.dmaRx && c.active && flag u.sr .rxr && !u.chStuck .rx then
    match c.dst with
    | .dr _ => .error (.reservedDescriptor i .rx)
    | .mem base =>
      match memWrite p m (byteAddr base c.off) u.rdr with
      | .error f => .ok (u.stickCh .rx f, m)
      | .ok m' => .ok (u.takeRdr.setCh .rx c.rxAdvance, m')
  else .ok (u, m)

/-- RxService(i) as part of a step (R133). -/
def rxServiceStep (i : Unit6) (s : State) : Out :=
  match rxService s.par i (s.uart i) s.mem with
  | .error f => .fault f
  | .ok (u, m) => .next { s.setUart i u with mem := m }

/-- Arm(i, d, ...) as part of a step (R130); an overlap is refused (R138). -/
def armStep (i : Unit6) (d : Dir) (dir : XferDir) (src dst : Endpoint) (len : Half) (circ : Bool)
    (prio : BitVec 2) (s : State) : Out :=
  let u := s.uart i
  let c := u.ch.get d
  if c.outstanding then .refused (.overlap i d)
  else .next (s.setUart i (u.setCh d (c.arm dir src dst len circ prio)))

/-- Trigger(i, d) as part of a step (R131): the stream becomes active, the event is emitted, and a receive stream
takes a byte already waiting; an overlap is refused (R138). -/
def triggerStep (i : Unit6) (d : Dir) (s : State) : Out :=
  let u := s.uart i
  let c := u.ch.get d
  if c.outstanding then .refused (.overlap i d)
  else
    let s' := (s.setUart i (u.setCh d { c with active := true })).emit (.trigger i d)
    match d with
    | .rx => rxServiceStep i s'
    | .tx => .next s'

end Sys2Proof.Machine
end

