-- ==== Sys2Proof/Machine/Solver.lean ====
section
/-! DEFINITION. The prescaler solver (R100 to R118): the two pure functions on natural numbers with exact
rational results, their register image (R113), and the operations SOLVEB and SOLVET. -/

namespace Sys2Proof.Machine

/-- An exact non-negative rational as a numerator over a denominator, not reduced (R14; log entry 14). -/
structure Ratio where
  num : Nat
  den : Nat
deriving DecidableEq, Repr

/-- The largest natural number not above a ratio. -/
def Ratio.floor (q : Ratio) : Nat := q.num / q.den

/-- The least natural number not below `10^4` times a ratio. -/
def Ratio.ceilTenThousand (q : Ratio) : Nat := (10000 * q.num + (q.den - 1)) / q.den

/-- A solver result: the two divisors, the actual frequency in hertz and the error in percent (R100). -/
structure Solution where
  coarse       : Nat
  fine         : Nat
  actualFreq   : Ratio
  errorPercent : Ratio
deriving DecidableEq, Repr

/-- |a - b| on natural numbers (R115). -/
def absDiff (a b : Nat) : Nat := if b ≤ a then a - b else b - a

/-- The baud divisor word: clk / t rounded half up (R103, R104). -/
def baudDivisor (clk t : Nat) : Nat := (2 * clk + t) / (2 * t)

/-- SolveBaud(clk, t); `none` is NoSolution (R103, R105). -/
def solveBaud (clk t : Nat) : Option Solution :=
  if t = 0 then none
  else
    let brr := baudDivisor clk t
    if brr < brrMin || brrMax < brr then none
    else some
      { coarse := brr / fracSteps
        fine := brr % fracSteps
        actualFreq := ⟨clk, brr⟩
        errorPercent := ⟨100 * absDiff clk (t * brr), t * brr⟩ }

/-- A candidate of the timer search: the pair (c, f) and its relative error num / den (R109). -/
structure Candidate where
  c   : Nat
  f   : Nat
  num : Nat
  den : Nat
deriving DecidableEq, Repr

/-- The fine divisor of coarse divisor c: the integer nearest to clk / (t * c), a half rounding up (R108). -/
def timerFine (clk t c : Nat) : Nat := (2 * clk + t * c) / (2 * t * c)

/-- The candidate of coarse divisor c, if its fine divisor is representable (R108, R109). -/
def timerCandidate (clk t c : Nat) : Option Candidate :=
  let f := timerFine clk t c
  if f < 1 || fineMax < f then none else some ⟨c, f, absDiff clk (t * c * f), t * c * f⟩

/-- Has x a strictly smaller error than the best so far? Compared by cross-multiplication (R109, R110). -/
def Candidate.improves (x : Candidate) (best : Option Candidate) : Bool :=
  match best with
  | none => true
  | some b => decide (x.num * b.den < b.num * x.den)

/-- Examine `fuel` coarse divisors from c upwards, keeping the best, and stop at an exact one (R107, R110, R111). -/
def timerSearch (clk t : Nat) : Nat → Nat → Option Candidate → Option Candidate
  | 0, _, best => best
  | fuel + 1, c, best =>
    match timerCandidate clk t c with
    | none => timerSearch clk t fuel (c + 1) best
    | some x =>
      if x.improves best then
        if x.num = 0 then some x else timerSearch clk t fuel (c + 1) (some x)
      else timerSearch clk t fuel (c + 1) best

/-- SolveTimer(clk, t); `none` is NoSolution (R107, R112). -/
def solveTimer (clk t : Nat) : Option Solution :=
  if t = 0 then none
  else
    match timerSearch clk t coarseMax 1 none with
    | none => none
    | some b =>
      some
        { coarse := b.c
          fine := b.f
          actualFreq := ⟨clk, b.c * b.f⟩
          errorPercent := ⟨100 * b.num, b.den⟩ }

/-- The register image of a solver result (R113): the divisors, the floor of the frequency, the error in parts
per million rounded up; NoSolution is 0, 0, 0 and -1. -/
def solverImage : Option Solution → Quad
  | none => ⟨0#32, 0#32, 0#32, minusOne⟩
  | some x =>
    ⟨BitVec.ofNat 32 x.coarse, BitVec.ofNat 32 x.fine, BitVec.ofNat 32 x.actualFreq.floor,
     BitVec.ofNat 32 x.errorPercent.ceilTenThousand⟩

/-- SOLVEB (R101). -/
def execSolveb (s : State) : Out :=
  acceptForeground s fun s =>
    .next (s.retAll .solveb (solverImage (solveBaud s.a.q0.toNat s.a.q1.toNat)))

/-- SOLVET (R102). -/
def execSolvet (s : State) : Out :=
  acceptForeground s fun s =>
    .next (s.retAll .solvet (solverImage (solveTimer s.a.q0.toNat s.a.q1.toNat)))

end Sys2Proof.Machine
end

