-- ==== Sys2Proof/Machine/Registry.lean ====
section
/-! DEFINITION. The registry's operations (R150 to R161): INIT, SETH and the primitive register accesses RDSR,
RDDR and WRDR. -/

namespace Sys2Proof.Machine

/-- What binding a unit comes to. -/
inductive BindResult where
  /-- The unit is bound. -/
  | bound (u : Uart)
  /-- A ConfigurationError: nothing changes (R152, R232). -/
  | configError
  /-- The unit is bound already (R158). -/
  | alreadyBound
deriving DecidableEq, Repr

/-- The divisor a configuration gives: 0 when disabled, else 16 * coarse + fine of the baud solver, and none when
there is no solution (R151). -/
def configDivisor (p : Params) (i : Unit6) (c : UartConfig) : Option Half :=
  if c.mode = .disabled then some 0#16
  else
    match solveBaud (p.pclk.get i).toNat c.baud.toNat with
    | none => none
    | some x => some (BitVec.ofNat 16 (fracSteps * x.coarse + x.fine))

/-- INIT's commit: the configuration, the divisor and the start status are written, nothing else (R151). -/
def Uart.commitBind (u : Uart) (c : UartConfig) (brr : Half) : Uart :=
  { u with cfgv := true, cfg := c, brr := brr, sr := srStart, rxact := false }

/-- The effect of INIT on a unit, its checks in the order of the pseudocode and all before the commit (R151, R152). -/
def bindUart (p : Params) (i : Unit6) (baud opts : Word) (u : Uart) : BindResult :=
  let c := unpackOptions baud opts
  if u.cfgv then .alreadyBound
  else if optionsReserved opts ≠ 0#15 then .configError
  else if baud = 0#32 then .configError
  else if !modeSupported p c then .configError
  else
    match configDivisor p i c with
    | none => .configError
    | some brr => .bound (u.commitBind c brr)

/-- INIT (R151): binds the unit to the configuration of A[0] and A[1]. -/
def execInit (unit : BitVec 4) (s : State) : Out :=
  acceptForeground s fun s =>
    match unitOf unit with
    | none => .next (s.raise .init)
    | some i =>
      match bindUart s.par i s.a.q0 s.a.q1 (s.uart i) with
      | .alreadyBound => .refused (.rebind i)
      | .configError => .next (s.raise .init)
      | .bound u => .next ((s.setUart i u).ret .init 0#32)

/-- SETH (R153): registers the handler token A[0], or NONE for 0; a SUB that names no kind is an illegal command
word (R90; log entry 16). -/
def execSeth (unit sub : BitVec 4) (s : State) : Out :=
  match kindOf sub with
  | none => illegalCommand s
  | some k =>
    acceptForeground s fun s =>
      match unitOf unit with
      | none => .next (s.raise .seth)
      | some i => .next ((s.setUart i ((s.uart i).setSlot k (slotOfToken s.a.q0))).ret .seth 0#32)

/-- RDSR (R154): reads the status register, without side effect. -/
def execRdsr (unit : BitVec 4) (s : State) : Out :=
  acceptAny s fun s =>
    match unitOf unit with
    | none => .next (s.raise .rdsr)
    | some i => .next (s.ret .rdsr ((s.uart i).sr.setWidth 32))

/-- RDDR (R155): reads the data register and clears `rxr`; a stale byte is no error. -/
def execRddr (unit : BitVec 4) (s : State) : Out :=
  acceptAny s fun s =>
    match unitOf unit with
    | none => .next (s.raise .rddr)
    | some i => .next ((s.setUart i (s.uart i).takeRdr).ret .rddr ((s.uart i).rdr.setWidth 32))

/-- WRDR (R156): writes the data register without waiting. -/
def execWrdr (unit : BitVec 4) (value : Byte) (s : State) : Out :=
  acceptAny s fun s =>
    match unitOf unit with
    | none => .next (s.raise .wrdr)
    | some i => .next ((s.setUart i ((s.uart i).writeTdr value)).ret .wrdr 0#32)

end Sys2Proof.Machine
end

