-- ==== Sys2Proof/Machine/Transfer.lean ====
section
/-! DEFINITION. The transfer engine (R120 to R139): SEND, RECV, SENDB and RECVB. The step that accepts the
command runs the label S0 (R75, log entry 4); each later label of the pseudocode is one foreground step. -/

namespace Sys2Proof.Machine

/-- No foreground step: the operation in progress has no such label. -/
def noForegroundStep : Out := .refused (.notEnabled .foreground)

/-! ### SEND -/

/-- S0 of SEND on a unit, with the operation to latch (R121): the check, the empty transfer, and the choice of path. -/
def sendStart (name : OpName) (op : FgOp) (i : Unit6) (len : Half) (s : State) : Out :=
  let u := s.uart i
  if !u.usable then .next (s.raise name)
  else if len = 0#16 then .next (s.ret name 0#32)
  else if len = 1#16 || !u.dmaTx then .next ((s.startFg op .p1).setK 0#16)
  else .next (s.startFg op .d1)

/-- A later step of SEND (R121). -/
def sendStep (name : OpName) (i : Unit6) (len : Half) (buf : Word) (s : State) : Out :=
  let u := s.uart i
  match s.fg.phase with
  | .p1 =>
    match memRead s.par s.mem (byteAddr buf s.fg.k) with
    | .error f => .next (s.stickForeground f)
    | .ok b => .next ((s.setUart i (u.writeTdr b)).goto .p2)
  | .p2 => if flag u.sr .txe then .next (s.goto .p3) else .next s
  | .p3 =>
    let s' := s.setK (s.fg.k + 1#16)
    if s'.fg.k.toNat < len.toNat then .next (s'.goto .p1) else .next (s'.endFg name 0#32)
  | .d1 =>
    ((armStep i .tx .memToPeriph (.mem buf) (.dr i) len false s.par.prioTx s).andThen
      (triggerStep i .tx)).andThen fun s' => .next (s'.goto .d2)
  | .d2 => if u.sig.tx then .next (s.goto .d3) else .next s
  | .d3 => .next ((s.setUart i (u.setSig .tx false)).endFg name 0#32)
  | .s0 => noForegroundStep
  | .w1 => noForegroundStep
  | .w2 => noForegroundStep
  | .c1 => noForegroundStep
  | .c2 => noForegroundStep

/-- SEND (R121). -/
def execSend (unit : BitVec 4) (len : Half) (s : State) : Out :=
  acceptForeground s fun s =>
    match unitOf unit with
    | none => .next (s.raise .send)
    | some i => sendStart .send (.send i len s.a.q0) i len s

/-! ### RECV -/

/-- S0 of RECV on a unit (R122). -/
def recvStart (i : Unit6) (circ : Bool) (len : Half) (s : State) : Out :=
  let u := s.uart i
  let op := FgOp.recv i circ len s.a.q0
  if !u.usable then .next (s.raise .recv)
  else if len = 0#16 then .next (s.ret .recv 0#32)
  else if !u.dmaRx then .next ((s.startFg op .p1).setK 0#16)
  else .next (s.startFg op .d1)

/-- A later step of RECV (R122). -/
def recvStep (i : Unit6) (circ : Bool) (len : Half) (buf : Word) (s : State) : Out :=
  let u := s.uart i
  match s.fg.phase with
  | .p1 => if flag u.sr .rxr then .next (s.goto .p2) else .next s
  | .p2 =>
    match memWrite s.par s.mem (byteAddr buf s.fg.k) u.rdr with
    | .error f => .next (s.stickForeground f)
    | .ok m =>
      let s' := { s.setUart i u.takeRdr with mem := m }.setK (s.fg.k + 1#16)
      if s'.fg.k.toNat < len.toNat then .next (s'.goto .p1) else .next (s'.endFg .recv 0#32)
  | .d1 =>
    ((armStep i .rx .periphToMem (.dr i) (.mem buf) len circ s.par.prioRx s).andThen
      (triggerStep i .rx)).andThen fun s' =>
        if circ then .next (s'.endFg .recv 0#32) else .next (s'.goto .d2)
  | .d2 => if u.sig.rx then .next (s.goto .d3) else .next s
  | .d3 => .next ((s.setUart i (u.setSig .rx false)).endFg .recv 0#32)
  | .s0 => noForegroundStep
  | .p3 => noForegroundStep
  | .w1 => noForegroundStep
  | .w2 => noForegroundStep
  | .c1 => noForegroundStep
  | .c2 => noForegroundStep

/-- RECV (R122). -/
def execRecv (unit : BitVec 4) (circ : Bool) (len : Half) (s : State) : Out :=
  acceptForeground s fun s =>
    match unitOf unit with
    | none => .next (s.raise .recv)
    | some i => recvStart i circ len s

/-! ### SENDB and RECVB -/

/-- A later step of SENDB (R123). -/
def sendbStep (i : Unit6) (value : Byte) (s : State) : Out :=
  let u := s.uart i
  match s.fg.phase with
  | .p1 => .next ((s.setUart i (u.writeTdr value)).goto .p2)
  | .p2 => if flag u.sr .txe then .next (s.goto .p3) else .next s
  | .p3 => .next (s.endFg .sendb 0#32)
  | .s0 => noForegroundStep
  | .d1 => noForegroundStep
  | .d2 => noForegroundStep
  | .d3 => noForegroundStep
  | .w1 => noForegroundStep
  | .w2 => noForegroundStep
  | .c1 => noForegroundStep
  | .c2 => noForegroundStep

/-- SENDB (R123). -/
def execSendb (unit : BitVec 4) (value : Byte) (s : State) : Out :=
  acceptForeground s fun s =>
    match unitOf unit with
    | none => .next (s.raise .sendb)
    | some i =>
      if !(s.uart i).usable then .next (s.raise .sendb) else .next (s.startFg (.sendb i value) .p1)

/-- A later step of RECVB (R124). -/
def recvbStep (i : Unit6) (s : State) : Out :=
  let u := s.uart i
  match s.fg.phase with
  | .p1 => if flag u.sr .rxr then .next (s.goto .p2) else .next s
  | .p2 => .next ((s.setUart i u.takeRdr).endFg .recvb (u.rdr.setWidth 32))
  | .s0 => noForegroundStep
  | .p3 => noForegroundStep
  | .d1 => noForegroundStep
  | .d2 => noForegroundStep
  | .d3 => noForegroundStep
  | .w1 => noForegroundStep
  | .w2 => noForegroundStep
  | .c1 => noForegroundStep
  | .c2 => noForegroundStep

/-- RECVB (R124). -/
def execRecvb (unit : BitVec 4) (s : State) : Out :=
  acceptForeground s fun s =>
    match unitOf unit with
    | none => .next (s.raise .recvb)
    | some i =>
      if !(s.uart i).usable then .next (s.raise .recvb) else .next (s.startFg (.recvb i) .p1)

end Sys2Proof.Machine
end

