-- ==== Sys2Proof/Machine/Framing.lean ====
section
/-! DEFINITION. The idle-line framing protocol (R170 to R194): FINIT, FSEND, FRECV, and the six steps of the
framing handler. -/

namespace Sys2Proof.Machine

/-- FINIT (R171): binds the framing unit with the fixed options, registers the framing handler, and starts the
circular receive over the window. -/
def execFinit (s : State) : Out :=
  acceptForeground s fun s =>
    let i := s.par.frameUnit
    match bindUart s.par i s.a.q0 framingOptions (s.uart i) with
    | .alreadyBound => .refused (.rebind i)
    | .configError => .next (s.raise .finit)
    | .bound u =>
      let s1 := { s.setUart i ((u.setSlot .idle .frame).setSig .rx false) with frame := ⟨true, .armed, 0#16⟩ }
      ((armStep i .rx .periphToMem (.dr i) (.mem s.par.winBase) s.par.frameCap true s.par.prioRx s1).andThen
        (triggerStep i .rx)).andThen fun s2 => .next (s2.ret .finit 0#32)

/-- FSEND (R172): SEND on the framing unit, step for step. -/
def execFsend (len : Half) (s : State) : Out :=
  acceptForeground s fun s => sendStart .fsend (.fsend len s.a.q0) s.par.frameUnit len s

/-- FRECV, its label S0 (R173). -/
def execFrecv (s : State) : Out :=
  acceptForeground s fun s =>
    if !s.frame.init then .next (s.raise .frecv) else .next (s.startFg (.frecv s.a.q0) .w1)

/-- A later step of FRECV (R173). -/
def frecvStep (buf : Word) (s : State) : Out :=
  let i := s.par.frameUnit
  let u := s.uart i
  match s.fg.phase with
  | .w1 => if u.sig.rx then .next (s.goto .w2) else .next s
  | .w2 =>
    let s1 := (s.setUart i (u.setSig .rx false)).setN s.frame.len
    if s1.fg.n.toNat < 2 then .next ({ s1 with frame := { s1.frame with state := .armed } }.endFg .frecv minusOne)
    else .next ((s1.setK 0#16).goto .c1)
  | .c1 =>
    match memRead s.par s.mem (byteAddr s.par.winBase s.fg.k) with
    | .error f => .next (s.stickForeground f)
    | .ok b =>
      match memWrite s.par s.mem (byteAddr buf s.fg.k) b with
      | .error f => .next (s.stickForeground f)
      | .ok m =>
        let s1 := { s with mem := m }.setK (s.fg.k + 1#16)
        if s1.fg.k.toNat < s1.fg.n.toNat then .next s1 else .next (s1.goto .c2)
  | .c2 => .next ({ s with frame := { s.frame with state := .armed } }.endFg .frecv (s.fg.n.setWidth 32))
  | .s0 => noForegroundStep
  | .p1 => noForegroundStep
  | .p2 => noForegroundStep
  | .p3 => noForegroundStep
  | .d1 => noForegroundStep
  | .d2 => noForegroundStep
  | .d3 => noForegroundStep

/-- The captured length: min((C - cnt) mod 2^16, C) (R179). -/
def capturedLength (cap cnt : Half) : Half := if (cap - cnt).toNat ≤ cap.toNat then cap - cnt else cap

/-- Bytes received since the last rearm, modulo 2^16: "bytes received so far = C − remaining-counter" (R49, R137). -/
def State.windowReceived (s : State) : Half := s.par.frameCap - (s.uart s.par.frameUnit).ch.rx.cnt

/-- The source's Receiving state, which is no value of FRAME.state but this condition (R51). -/
def State.receiving (s : State) : Bool :=
  decide (s.frame.state = .armed) && decide (0 < s.windowReceived.toNat)

/-- The source's Frame, {length, validity}: FRAME.len and whether it is at least 2 (R50). -/
def FrameRec.valid (f : FrameRec) : Bool := decide (2 ≤ f.len.toNat)

/-- A step of the framing handler in the dispatcher of unit i, which is the framing unit whenever this happens
(R176 to R182; log entry 15). -/
def frameStep (i : Unit6) (f : FrameStep) (s : State) : Out :=
  let u := s.uart i
  let w := u.ch.rx
  match f with
  | .f0 => .next (s.setUart i ({ u with masked := true }.setPhase (.frame .f1)))
  | .f1 => .next (s.setUart i ((u.setCh .rx { w with active := false }).setPhase (.frame .f2)))
  | .f2 =>
    .next (s.setUart i
      { u with dsp := { u.dsp with phase := .frame .f3, flen := capturedLength s.par.frameCap w.cnt } })
  | .f3 => .next (s.setUart i ((u.setCh .rx { w with cnt := s.par.frameCap }).setPhase (.frame .f4)))
  | .f4 =>
    rxServiceStep i (s.setUart i ((u.setCh .rx { w with off := 0#16, active := true }).setPhase (.frame .f5)))
  | .f5 =>
    .next
      { s.setUart i (({ u with masked := false }.setSig .rx true).finish .idle) with
        frame := { s.frame with state := .frameCaptured, len := u.dsp.flen } }

end Sys2Proof.Machine
end

