-- ==== Sys2Proof/Machine/Interrupt.lean ====
section
/-! DEFINITION. Interrupt dispatch (R210 to R228): the steps of dispatcher DSP[i] and the return HRET from an
external handler. -/

namespace Sys2Proof.Machine

/-- Scan(i, k): skip a kind not in the snapshot, else service it by its slot; the enable mask is not consulted
(R214 to R217). -/
def scanStep (i : Unit6) (k : EventKind) (s : State) : Out :=
  let u := s.uart i
  if !flag u.dsp.snap k then .next (s.setUart i (u.advance k))
  else
    match u.hslot.get k with
    | .empty => .next (s.setUart i (u.finish k))
    | .frame => .next (s.setUart i (u.setPhase (.frame .f0)))
    | .ext h => .next ((s.setUart i (u.setPhase (.inHandler k))).emit (.handlerCall i k h))

/-- The next step of dispatcher DSP[i]; it has none while Idle without a request and none in a handler (R213, R214,
R217). -/
def dispatcherStep (i : Unit6) (s : State) : Out :=
  let u := s.uart i
  match u.dsp.phase with
  | .idle =>
    if u.irq then .next (s.setUart i u.dispatchEnter) else .refused (.notEnabled (.dispatcher i))
  | .scan k => scanStep i k s
  | .inHandler _ => .refused (.notEnabled (.dispatcher i))
  | .frame f => frameStep i f s

/-- HRET (R224): ends the external handler of the unit; -1 where that unit's dispatcher is in no handler. -/
def execHret (unit : BitVec 4) (s : State) : Out :=
  acceptAny s fun s =>
    match unitOf unit with
    | none => .next (s.raise .hret)
    | some i =>
      match (s.uart i).dsp.phase with
      | .inHandler k => .next ((s.setUart i ((s.uart i).finish k)).ret .hret 0#32)
      | .idle => .next (s.raise .hret)
      | .scan _ => .next (s.raise .hret)
      | .frame _ => .next (s.raise .hret)

end Sys2Proof.Machine
end

