-- ==== Sys2Proof/Machine/Agents.lean ====
section
/-! DEFINITION. The moves of the remaining agents (R16): the foreground context between commands, the DMA channels'
own steps (R134, R135), the line agents (R195 to R206) and the host's writes of operand registers and memory. -/

namespace Sys2Proof.Machine

/-- A move whose guard does not hold (log entry 7). -/
def notEnabled (m : Move) : Out := .refused (.notEnabled m)

/-- The foreground context takes the next step of the operation in progress; it takes none while a dispatcher is
in service (R17), once a BusFault made it stuck (R61, R238), or while no operation is in progress. -/
def foregroundStep (s : State) : Out :=
  if s.foregroundMayAct then
    match s.fg.op with
    | none => noForegroundStep
    | some (.send i len buf) => sendStep .send i len buf s
    | some (.recv i circ len buf) => recvStep i circ len buf s
    | some (.sendb i v) => sendbStep i v s
    | some (.recvb i) => recvbStep i s
    | some (.fsend len buf) => sendStep .fsend s.par.frameUnit len buf s
    | some (.frecv buf) => frecvStep buf s
  else noForegroundStep

/-- TxMove(i): the transmit stream moves the next byte from memory to the data register (R134); at an invalid address
the channel is stuck with its BusFault recorded and moves nothing (R61, R238). -/
def txMoveStep (i : Unit6) (s : State) : Out :=
  let u := s.uart i
  let c := u.ch.tx
  if u.dmaTx && c.active && flag u.sr .txe && !u.chStuck .tx then
    match c.src with
    | .dr _ => .fault (.reservedDescriptor i .tx)
    | .mem base =>
      match memRead s.par s.mem (byteAddr base c.off) with
      | .error f => .next (s.setUart i (u.stickCh .tx f))
      | .ok b => .next (s.setUart i ((u.writeTdr b).setCh .tx c.txAdvance))
  else notEnabled (.txMove i)

/-- DmaDone(i, d): the completion callback sets the CompletionSignal (R135); a stuck channel has no step (R61). -/
def dmaDoneStep (i : Unit6) (d : Dir) (s : State) : Out :=
  let u := s.uart i
  let c := u.ch.get d
  if c.done && !u.chStuck d then .next (s.setUart i ((u.setCh d { c with done := false }).setSig d true))
  else notEnabled (.dmaDone i d)

/-- RxByte(i, b): a byte arrives; dropped while an untaken byte waits, else latched and offered to the stream (R197). -/
def rxByteStep (i : Unit6) (b : Byte) (s : State) : Out :=
  let u := s.uart i
  if !u.usable then notEnabled (.rxByte i b)
  else if flag u.sr .rxr then .next (s.setUart i { u with rxact := true })
  else rxServiceStep i (s.setUart i { u with rxact := true, rdr := b, sr := setFlag u.sr .rxr })

/-- IdleEvent(i): only after at least one byte since the last idle event (R198). -/
def idleEventStep (i : Unit6) (s : State) : Out :=
  let u := s.uart i
  if u.usable && u.rxact then .next (s.setUart i { u.raiseFlag .idle with rxact := false })
  else notEnabled (.idleEvent i)

/-- TxShift(i): the waiting byte goes out on the line; `txe` and `txc` are set together (R199). -/
def txShiftStep (i : Unit6) (s : State) : Out :=
  let u := s.uart i
  if u.usable && !flag u.sr .txe then
    .next ((s.setUart i ((u.raiseFlag .txe).raiseFlag .txc)).emit (.tx i u.tdr))
  else notEnabled (.txShift i)

/-- CtsEvent(i) (R201). -/
def ctsEventStep (i : Unit6) (s : State) : Out :=
  if (s.uart i).usable then .next (s.setUart i ((s.uart i).raiseFlag .cts)) else notEnabled (.ctsEvent i)

/-- BreakEvent(i) (R202). -/
def breakEventStep (i : Unit6) (s : State) : Out :=
  if (s.uart i).usable then .next (s.setUart i ((s.uart i).raiseFlag .brk)) else notEnabled (.breakEvent i)

/-- ParityEvent(i) (R203). -/
def parityEventStep (i : Unit6) (s : State) : Out :=
  if (s.uart i).usable then .next (s.setUart i ((s.uart i).raiseFlag .pe)) else notEnabled (.parityEvent i)

/-- The host writes operand register A[n]; an operation in progress keeps its latched operands (R26, R27; log
entry 11). -/
def hostOperandStep (n : Fin 4) (v : Word) (s : State) : Out :=
  if s.hostMayAct then
    .next { s with a := match n with
      | 0 => { s.a with q0 := v }
      | 1 => { s.a with q1 := v }
      | 2 => { s.a with q2 := v }
      | 3 => { s.a with q3 := v } }
  else .refused .hostHasNoMove

/-- The host stores a byte to system memory (R52, R55; log entry 11); at an invalid address its context is stuck with
its BusFault recorded (R62, R238). -/
def hostStoreStep (a : Word) (b : Byte) (s : State) : Out :=
  if s.hostMayAct then
    match memWrite s.par s.mem a b with
    | .error f => .next (s.stickHost f)
    | .ok m => .next { s with mem := m }
  else .refused .hostHasNoMove

end Sys2Proof.Machine
end

