-- ==== Sys2Proof/Machine/Dispatch.lean ====
section
/-! DEFINITION. The meaning of each operation: one arm a constructor of Instr. -/

namespace Sys2Proof.Machine

-- The meaning of presenting an operation to the block: one arm for each row of the opcode table (R84).
def exec (i : Instr) (s : State) : Host.Outcome State Fault Refusal :=
  match i with
  | .init unit => Sys2Proof.Machine.execInit unit s
  | .send unit len => Sys2Proof.Machine.execSend unit len s
  | .recv unit circ len => Sys2Proof.Machine.execRecv unit circ len s
  | .sendb unit value => Sys2Proof.Machine.execSendb unit value s
  | .recvb unit => Sys2Proof.Machine.execRecvb unit s
  | .seth unit sub => Sys2Proof.Machine.execSeth unit sub s
  | .finit => Sys2Proof.Machine.execFinit s
  | .fsend len => Sys2Proof.Machine.execFsend len s
  | .frecv => Sys2Proof.Machine.execFrecv s
  | .solveb => Sys2Proof.Machine.execSolveb s
  | .solvet => Sys2Proof.Machine.execSolvet s
  | .rdsr unit => Sys2Proof.Machine.execRdsr unit s
  | .rddr unit => Sys2Proof.Machine.execRddr unit s
  | .wrdr unit value => Sys2Proof.Machine.execWrdr unit value s
  | .hret unit => Sys2Proof.Machine.execHret unit s

end Sys2Proof.Machine
end

