-- ==== Sys2Proof/Machine/Moves.lean ====
section
/-! DEFINITION. The moves of all agents together (R16), the presentation of a command among them (R75). -/

namespace Sys2Proof.Machine

/-- The host writes CMD: the word is decoded and, if legal, presented; an illegal word has R90's effect
(R75, R89); CMD holds the word in either case (log entry 17). -/
def presentCommand (w : Word) (s : State) : Out :=
  match decode w with
  | .legal i => exec i { s with cmd := w }
  | .illegal _ => illegalCommand { s with cmd := w }

/-- One move of one agent (R16). -/
def agentStep (m : Move) (s : State) : Out :=
  match m with
  | .hostOperand n v => hostOperandStep n v s
  | .hostStore a b => hostStoreStep a b s
  | .hostCommand w => presentCommand w s
  | .foreground => foregroundStep s
  | .dispatcher i => dispatcherStep i s
  | .txMove i => txMoveStep i s
  | .dmaDone i d => dmaDoneStep i d s
  | .rxByte i b => rxByteStep i b s
  | .idleEvent i => idleEventStep i s
  | .txShift i => txShiftStep i s
  | .ctsEvent i => ctsEventStep i s
  | .breakEvent i => breakEventStep i s
  | .parityEvent i => parityEventStep i s

end Sys2Proof.Machine
end

