-- ==== Sys2Proof/Machine/Step.lean ====
section
/-! DEFINITION. One step: the next move of the schedule is taken by the agent it names (R15, R19). -/

namespace Sys2Proof.Machine

/-- One step: the first move of the schedule is taken off it and made; with nothing scheduled no agent moves
(log entry 3). -/
def step (s : State) : Host.Outcome State Fault Refusal :=
  match s.sched with
  | [] => .next s
  | m :: rest => agentStep m { s with sched := rest }

/-- The state whose next step presents the command word of the low `nbits` bits of `w`: the host's write of CMD is
put before the other moves of the schedule (R75, log entry 3). -/
def State.withFetchWord (s : State) (nbits w : Nat) : State :=
  { s with sched := .hostCommand (BitVec.ofNat 32 (w % 2 ^ nbits)) :: s.sched }

end Sys2Proof.Machine
end

