-- ==== Sys2Proof/Safety.lean ====
section
/-! DEFINITION. The terms statements are made in: runs of moves, the contexts a host command needs, the reset
state without its unspecified values, quiescence, the invariant of the machine, and the start state of the framing
protocol's properties. -/

namespace Sys2Proof.Machine

/-! ### Runs -/

/-- The moves of a list taken one after the other (R15). -/
def runMoves : List Move → State → Out
  | [], s => .next s
  | m :: ms, s => (agentStep m s).andThen (runMoves ms)

/-- An operation is presented and then a list of moves taken (R75, R15). -/
def presentThen (i : Instr) (ms : List Move) (s : State) : Out := Out.andThen (exec i s) (runMoves ms)

/-- A list of moves repeated n times. -/
def repeated (n : Nat) (ms : List Move) : List Move := (List.replicate n ms).flatten

/-- The moves in which the line delivers a list of bytes to a unit, one after the other (R197). -/
def delivered (i : Unit6) (bs : List Byte) : List Move := bs.map fun b => .rxByte i b

/-! ### Contexts -/

/-- The host may issue a foreground operation: every dispatcher Idle, no operation in progress (R94), and no BusFault has
made the foreground stuck (R61). -/
def State.foregroundFree (s : State) : Prop := s.allIdle = true ∧ s.fg.op = none ∧ s.fgFault = none

/-- The host may issue RDSR, RDDR, WRDR or HRET: the foreground with no operation in progress, or the interrupt
context (R94), neither made stuck by a BusFault (R61). -/
def State.hostContext (s : State) : Prop :=
  s.foregroundFree ∨ (s.allIdle = false ∧ s.someHandler = true ∧ s.handlerFault = none)

/-- The operations only the foreground context may issue (R94, R240). -/
def foregroundOnly : Instr → Bool
  | .init _ => true
  | .send _ _ => true
  | .recv _ _ _ => true
  | .sendb _ _ => true
  | .recvb _ => true
  | .seth _ _ => true
  | .finit => true
  | .fsend _ => true
  | .frecv => true
  | .solveb => true
  | .solvet => true
  | .rdsr _ => false
  | .rddr _ => false
  | .wrdr _ _ => false
  | .hret _ => false

/-- A value of the INST field that names no unit: 0 and 7 to 15 (R78). -/
def namesNoUnit (n : BitVec 4) : Prop := n = 0#4 ∨ 7 ≤ n.toNat

/-- The host stands where R94 accepts an operation: in the foreground context with no operation in progress, or,
for the four operations of both contexts, in the interrupt context. -/
def State.accepts (s : State) (i : Instr) : Prop :=
  s.foregroundFree ∨ 
    (foregroundOnly i = false ∧ s.allIdle = false ∧ s.someHandler = true ∧ s.handlerFault = none)

/-- The INST field of an operation that takes a unit (R78). -/
def unitField : Instr → Option (BitVec 4)
  | .init n => some n
  | .send n _ => some n
  | .recv n _ _ => some n
  | .sendb n _ => some n
  | .recvb n => some n
  | .seth n _ => some n
  | .finit => none
  | .fsend _ => none
  | .frecv => none
  | .solveb => none
  | .solvet => none
  | .rdsr n => some n
  | .rddr n => some n
  | .wrdr n _ => some n
  | .hret n => some n

/-- The name an operation has in the observation trace (R57). -/
def opName : Instr → OpName
  | .init _ => .init
  | .send _ _ => .send
  | .recv _ _ _ => .recv
  | .sendb _ _ => .sendb
  | .recvb _ => .recvb
  | .seth _ _ => .seth
  | .finit => .finit
  | .fsend _ => .fsend
  | .frecv => .frecv
  | .solveb => .solveb
  | .solvet => .solvet
  | .rdsr _ => .rdsr
  | .rddr _ => .rddr
  | .wrdr _ _ => .wrdr
  | .hret _ => .hret

/-- The unit an operation is about: the one its INST field names, and the framing unit for FINIT, FSEND and FRECV
(R78, R171 to R173); none for the solver and for a field that names no unit. -/
def unitTouched (p : Params) : Instr → Option Unit6
  | .init n => unitOf n
  | .send n _ => unitOf n
  | .recv n _ _ => unitOf n
  | .sendb n _ => unitOf n
  | .recvb n => unitOf n
  | .seth n _ => unitOf n
  | .finit => some p.frameUnit
  | .fsend _ => some p.frameUnit
  | .frecv => some p.frameUnit
  | .solveb => none
  | .solvet => none
  | .rdsr n => unitOf n
  | .rddr n => unitOf n
  | .wrdr n _ => unitOf n
  | .hret n => unitOf n

/-- The operations that send a buffer of `len` bytes on a unit, each with its name in the trace and the operation
it latches: SEND of that unit, and FSEND where it is the framing unit (R121, R172). -/
def sendForms (p : Params) (i : Unit6) (len : Half) (buf : Word) : List (Instr × OpName × FgOp) :=
  if i = p.frameUnit then
    [(.send (unitNumber i) len, .send, .send i len buf), (.fsend len, .fsend, .fsend len buf)]
  else [(.send (unitNumber i) len, .send, .send i len buf)]

/-- The foreground is in the polled path of SEND, FSEND or SENDB (R121, R123). -/
def State.polledSending (s : State) : Prop :=
  ((∃ i len buf, s.fg.op = some (.send i len buf)) ∨ (∃ len buf, s.fg.op = some (.fsend len buf)) ∨
    (∃ i v, s.fg.op = some (.sendb i v))) ∧
  (s.fg.phase = .p1 ∨ s.fg.phase = .p2 ∨ s.fg.phase = .p3)

/-- Is a move the host's own? -/
def Move.isHost : Move → Bool
  | .hostOperand _ _ => true
  | .hostStore _ _ => true
  | .hostCommand _ => true
  | .foreground => false
  | .dispatcher _ => false
  | .txMove _ => false
  | .dmaDone _ _ => false
  | .rxByte _ _ => false
  | .idleEvent _ => false
  | .txShift _ => false
  | .ctsEvent _ => false
  | .breakEvent _ => false
  | .parityEvent _ => false

/-- The unit whose dispatcher, channel or line agent makes a move; none for the host and the foreground (R16). -/
def Move.unit : Move → Option Unit6
  | .hostOperand _ _ => none
  | .hostStore _ _ => none
  | .hostCommand _ => none
  | .foreground => none
  | .dispatcher i => some i
  | .txMove i => some i
  | .dmaDone i _ => some i
  | .rxByte i _ => some i
  | .idleEvent i => some i
  | .txShift i => some i
  | .ctsEvent i => some i
  | .breakEvent i => some i
  | .parityEvent i => some i

/-- The unit whose line agent makes a move; none for every other agent (R195). -/
def Move.lineUnit : Move → Option Unit6
  | .hostOperand _ _ => none
  | .hostStore _ _ => none
  | .hostCommand _ => none
  | .foreground => none
  | .dispatcher _ => none
  | .txMove _ => none
  | .dmaDone _ _ => none
  | .rxByte i _ => some i
  | .idleEvent i => some i
  | .txShift i => some i
  | .ctsEvent i => some i
  | .breakEvent i => some i
  | .parityEvent i => some i

/-! ### Buffers and stores -/

/-- Every byte of a buffer is backed by memory (R9, R248). -/
def bufferValid (p : Params) (buf : Word) (len : Half) : Prop :=
  ∀ j : Half, j.toNat < len.toNat → memValid p (byteAddr buf j) = true

/-- The bytes of a buffer in ascending address order (R63, R67). -/
def bufferBytes (m : Memory) (buf : Word) (len : Half) : List Byte :=
  (List.range len.toNat).map fun j => m.read (byteAddr buf (BitVec.ofNat 16 j)).toNat

/-- A buffer holds a list of bytes, the first at the lowest index (R63, R67). -/
def holdsBytes (m : Memory) (buf : Word) (bs : List Byte) : Prop :=
  ∀ (j : Nat) (h : j < bs.length), m.read (byteAddr buf (BitVec.ofNat 16 j)).toNat = bs[j]

/-- Two memories read the same at every address outside the first n bytes of a buffer. -/
def sameOutside (m m' : Memory) (buf : Word) (n : Nat) : Prop :=
  ∀ a : Word, (∀ j, j < n → a ≠ byteAddr buf (BitVec.ofNat 16 j)) → m'.read a.toNat = m.read a.toNat

/-- The address the receive service stores to, if it moves a byte (R133). -/
def Uart.serviceAddress (u : Uart) : Option Word :=
  if u.dmaRx && u.ch.rx.active && flag u.sr .rxr && !u.chStuck .rx then
    match u.ch.rx.dst with
    | .mem base => some (byteAddr base u.ch.rx.off)
    | .dr _ => none
  else none

/-- The address the foreground's next step stores to: RECV's label P2 and FRECV's label C1 store one byte at the
index FG.k, and the trigger in RECV's label D1 stores a waiting byte as byte 0 (R122, R131, R173). -/
def State.foregroundStore (s : State) : Option Word :=
  match s.fg.op with
  | none => none
  | some (.recv i _ _ buf) =>
    if s.fg.phase = .p2 then some (byteAddr buf s.fg.k)
    else if s.fg.phase = .d1 ∧ (s.uart i).dmaRx = true ∧ flag (s.uart i).sr .rxr = true ∧
        (s.uart i).chStuck .rx = false then
      some (byteAddr buf 0#16)
    else none
  | some (.frecv buf) => if s.fg.phase = .c1 then some (byteAddr buf s.fg.k) else none
  | some (.send _ _ _) => none
  | some (.sendb _ _) => none
  | some (.recvb _) => none
  | some (.fsend _ _) => none

/-- The one address a move may store to (R55): the host's store, the foreground's, the receive service inside the
line agent's receive event, and inside the framing handler's restart. -/
def Move.storeAddress (s : State) : Move → Option Word
  | .hostOperand _ _ => none
  | .hostStore a _ => some a
  | .hostCommand _ => none
  | .foreground => s.foregroundStore
  | .dispatcher i =>
    if (s.uart i).dsp.phase = .frame .f4 then
      ((s.uart i).setCh .rx { (s.uart i).ch.rx with off := 0#16, active := true }).serviceAddress
    else none
  | .txMove _ => none
  | .dmaDone _ _ => none
  | .rxByte i _ =>
    if flag (s.uart i).sr .rxr then none
    else { s.uart i with sr := setFlag (s.uart i).sr .rxr }.serviceAddress
  | .idleEvent _ => none
  | .txShift _ => none
  | .ctsEvent _ => none
  | .breakEvent _ => none
  | .parityEvent _ => none

/-! ### A whole dispatch -/

/-- The event kinds in servicing order (R86). -/
def allKinds : List EventKind := [.cts, .brk, .txe, .txc, .rxr, .idle, .pe]

/-- The moves that service one kind of a dispatch, external handlers returning at once: the scan step, then HRET
after a handler call, or the six steps of the framing handler (R214 to R217, R224). -/
def kindMoves (i : Unit6) (u : Uart) (k : EventKind) : List Move :=
  if flag u.sr k then
    match u.hslot.get k with
    | .empty => [.dispatcher i]
    | .frame => List.replicate 7 (.dispatcher i)
    | .ext _ => [.dispatcher i, .hostCommand (encode (.hret (unitNumber i)))]
  else [.dispatcher i]

/-- The moves of a whole dispatch of a unit, from trap entry to the return to Idle (R213 to R220). -/
def dispatchMoves (i : Unit6) (u : Uart) : List Move := .dispatcher i :: allKinds.flatMap (kindMoves i u)

/-- The trace events of servicing one kind whose handler returns at once: the call and HRET's return (R217, R224). -/
def kindEvents (i : Unit6) (u : Uart) (r : Quad) (k : EventKind) : List Ev :=
  if flag u.sr k then
    match u.hslot.get k with
    | .empty => []
    | .frame => []
    | .ext h => [.handlerCall i k h, .ret .hret { r with q0 := 0#32 }]
  else []

/-! ### The solver's rationals -/

/-- The rational number a numerator and a denominator stand for (R14). -/
def Ratio.value (q : Ratio) : Rat := (q.num : Rat) / (q.den : Rat)

/-- The relative error of divisors whose product is d: |clk / d - t| / t as |clk - t * d| / (t * d) (R106, R109). -/
def relativeError (clk t d : Nat) : Rat := (absDiff clk (t * d) : Rat) / ((t * d : Nat) : Rat)

/-- The register image of a tuple (R113): the divisors, the frequency rounded down, and ten thousand times the error
percentage rounded up, each whole in 32 bits. -/
structure Solution.Image (x : Solution) (r : Quad) : Prop where
  coarse : r.q0.toNat = x.coarse
  fine   : r.q1.toNat = x.fine
  actual : (r.q2.toNat : Int) = x.actualFreq.value.floor
  error  : (r.q3.toNat : Int) = (10000 * x.errorPercent.value).ceil

/-! ### Reset and rest -/

/-- A unit as reset leaves it, its unspecified values left open (R56), with no fault recorded: a run starts before its
first access (R245). -/
structure Uart.AfterReset (u : Uart) : Prop where
  cfgv   : u.cfgv = false
  sr     : u.sr = 0#7
  rxact  : u.rxact = false
  slots  : ∀ k, u.hslot.get k = .empty
  sig    : ∀ d, u.sig.get d = false
  masked : u.masked = false
  phase  : u.dsp.phase = .idle
  active : ∀ d, (u.ch.get d).active = false
  done   : ∀ d, (u.ch.get d).done = false
  fault  : ∀ d, u.chFault.get d = none

/-- A state as reset leaves it: the values the table of R56 gives, every value it calls unspecified left open. -/
structure State.AfterReset (s : State) : Prop where
  cmd   : s.cmd = 0#32
  a     : s.a = ⟨0#32, 0#32, 0#32, 0#32⟩
  r     : s.r = ⟨0#32, 0#32, 0#32, 0#32⟩
  op    : s.fg.op = none
  units : ∀ i, (s.uart i).AfterReset
  frame : s.frame.init = false
  trace : s.trace = []
  fault : s.fgFault = none ∧ s.handlerFault = none

/-- TxMove(i) is enabled (R134). -/
def Uart.txMoveEnabled (u : Uart) : Bool :=
  u.dmaTx && u.ch.tx.active && flag u.sr .txe && !u.chStuck .tx

/-- TxShift(i) is enabled (R196, R199). -/
def Uart.txShiftEnabled (u : Uart) : Bool := u.usable && !flag u.sr .txe

/-- The run is marked faulty: a BusFault is recorded of some agent (R61, R238). -/
def State.faulty (s : State) : Prop :=
  s.fgFault ≠ none ∨ s.handlerFault ≠ none ∨ ∃ i d, (s.uart i).chFault.get d ≠ none

/-- The quiescent states, in which a finite run may end (R250); "a faulted run is never final" (R61). -/
structure State.Quiescent (s : State) : Prop where
  op      : s.fg.op = none
  idle    : ∀ i, (s.uart i).dsp.phase = .idle
  request : ∀ i, (s.uart i).irq = false
  done    : ∀ i d, ((s.uart i).ch.get d).done = false
  move    : ∀ i, (s.uart i).txMoveEnabled = false
  shift   : ∀ i, (s.uart i).txShiftEnabled = false
  sound   : ¬ s.faulty

/-! ### The invariant -/

/-- A bound unit holds a legal configuration and the divisor the baud solver gives for it (R29, R30, R151). -/
def Uart.ConfigSound (p : Params) (i : Unit6) (u : Uart) : Prop :=
  u.cfgv = true →
    u.cfg.baud ≠ 0#32 ∧ modeSupported p u.cfg = true ∧ configDivisor p i u.cfg = some u.brr

/-- The slot value FRAME occurs only in the idle-line slot of the framing unit (R176, R216), and no slot holds the
token 0 (R43). -/
def Uart.SlotsSound (p : Params) (i : Unit6) (u : Uart) : Prop :=
  ∀ k, (u.hslot.get k = .frame → i = p.frameUnit ∧ k = .idle) ∧ u.hslot.get k ≠ .ext 0#32

/-- The masked region of the framing handler: between F0 and F5 (R45, R177, R182). -/
def DspPhase.inMaskedRegion : DspPhase → Bool
  | .idle => false
  | .scan _ => false
  | .inHandler _ => false
  | .frame .f0 => false
  | .frame .f1 => true
  | .frame .f2 => true
  | .frame .f3 => true
  | .frame .f4 => true
  | .frame .f5 => true

/-- The framing handler has stopped the receive stream and not yet restarted it: between F1 and F4 (R178, R181). -/
def DspPhase.streamStopped : DspPhase → Bool
  | .idle => false
  | .scan _ => false
  | .inHandler _ => false
  | .frame .f0 => false
  | .frame .f1 => false
  | .frame .f2 => true
  | .frame .f3 => true
  | .frame .f4 => true
  | .frame .f5 => false

/-- A dispatcher in a handler services a kind of its snapshot whose slot holds that handler, and the mask bit is set
exactly in the masked region (R45, R216, R217, R221). -/
structure Uart.DispatchSound (u : Uart) : Prop where
  masked  : u.masked = u.dsp.phase.inMaskedRegion
  framing : ∀ f, u.dsp.phase = .frame f → u.hslot.get .idle = .frame ∧ flag u.dsp.snap .idle = true
  handler : ∀ k, u.dsp.phase = .inHandler k → flag u.dsp.snap k = true ∧ ∃ h, u.hslot.get k = .ext h

/-- What holds of a channel of unit i that moves between an address and the data register (R47, R130 to R137). -/
structure Chan.Sound (c : Chan) (dir : XferDir) (memory device : Endpoint) (i : Unit6) : Prop where
  descriptor : c.active = true → c.dir = dir ∧ c.width = 0#2 ∧ device = .dr i ∧ ∃ base, memory = .mem base
  exclusive  : c.active = true → c.done = false
  complete   : c.done = true → c.cnt = 0#16 ∧ c.circ = false
  oneShot    : c.active = true → c.circ = false → c.cnt ≠ 0#16 ∧ c.off.toNat + c.cnt.toNat = c.len.toNat
  circular   : c.active = true → c.circ = true → c.off.toNat < c.len.toNat

/-- Both channels of a unit are sound, and the transmit channel is never circular while active (R47, R134). -/
structure Uart.ChannelsSound (i : Unit6) (u : Uart) : Prop where
  rx       : u.ch.rx.Sound .periphToMem u.ch.rx.dst u.ch.rx.src i
  tx       : u.ch.tx.Sound .memToPeriph u.ch.tx.src u.ch.tx.dst i
  txLinear : u.ch.tx.active = true → u.ch.tx.circ = false

/-- Once FINIT has succeeded, the framing unit keeps FINIT's binding and its circular receive descriptor, the stream
runs except between F1 and F4, and no captured length exceeds the capacity (R171, R178 to R182). -/
structure State.FramingSound (s : State) (u : Uart) : Prop where
  handler : u.hslot.get .idle = .frame → s.frame.init = true
  bound   : s.frame.init = true → u.cfgv = true ∧ u.cfg = unpackOptions u.cfg.baud framingOptions
  window  : s.frame.init = true →
    u.ch.rx.dir = .periphToMem ∧ u.ch.rx.width = 0#2 ∧ u.ch.rx.src = .dr s.par.frameUnit ∧
    u.ch.rx.dst = .mem s.par.winBase ∧ u.ch.rx.len = s.par.frameCap ∧ u.ch.rx.circ = true ∧
    u.ch.rx.prio = s.par.prioRx ∧ u.ch.rx.done = false ∧ u.ch.rx.off.toNat < s.par.frameCap.toNat
  stream  : s.frame.init = true → u.ch.rx.active = !u.dsp.phase.streamStopped
  length  : s.frame.init = true → s.frame.len.toNat ≤ s.par.frameCap.toNat
  flen    : ∀ f, u.dsp.phase = .frame f → f = .f3 ∨ f = .f4 ∨ f = .f5 →
    u.dsp.flen.toNat ≤ s.par.frameCap.toNat

/-- The foreground sequencer inside SEND or FSEND on a unit (R121): the label belongs to the path the length and
dmaen chose, the byte index is inside the buffer, and a wait for the signal is a wait for something outstanding. -/
def Uart.SendSound (u : Uart) (len k : Half) : FgPhase → Prop
  | .p1 => k.toNat < len.toNat ∧ (len = 1#16 ∨ u.dmaTx = false)
  | .p2 => k.toNat < len.toNat ∧ (len = 1#16 ∨ u.dmaTx = false)
  | .p3 => k.toNat < len.toNat ∧ (len = 1#16 ∨ u.dmaTx = false)
  | .d1 => 2 ≤ len.toNat ∧ u.dmaTx = true
  | .d2 => 2 ≤ len.toNat ∧ u.dmaTx = true ∧ (u.ch.tx.outstanding = true ∨ u.sig.tx = true)
  | .d3 => 2 ≤ len.toNat ∧ u.dmaTx = true ∧ u.sig.tx = true
  | .s0 => False
  | .w1 => False
  | .w2 => False
  | .c1 => False
  | .c2 => False

/-- The foreground sequencer inside RECV on a unit (R122). -/
def Uart.RecvSound (u : Uart) (circ : Bool) (len k : Half) : FgPhase → Prop
  | .p1 => k.toNat < len.toNat ∧ u.dmaRx = false
  | .p2 => k.toNat < len.toNat ∧ u.dmaRx = false
  | .d1 => 1 ≤ len.toNat ∧ u.dmaRx = true
  | .d2 => circ = false ∧ u.dmaRx = true ∧ (u.ch.rx.outstanding = true ∨ u.sig.rx = true)
  | .d3 => circ = false ∧ u.dmaRx = true ∧ u.sig.rx = true
  | .s0 => False
  | .p3 => False
  | .w1 => False
  | .w2 => False
  | .c1 => False
  | .c2 => False

/-- The foreground sequencer inside FRECV (R173). -/
def State.FrecvSound (s : State) (u : Uart) : FgPhase → Prop
  | .w1 => True
  | .w2 => u.sig.rx = true
  | .c1 => 2 ≤ s.fg.n.toNat ∧ s.fg.n.toNat ≤ s.par.frameCap.toNat ∧ s.fg.k.toNat < s.fg.n.toNat
  | .c2 => 2 ≤ s.fg.n.toNat ∧ s.fg.n.toNat ≤ s.par.frameCap.toNat ∧ s.fg.k = s.fg.n
  | .s0 => False
  | .p1 => False
  | .p2 => False
  | .p3 => False
  | .d1 => False
  | .d2 => False
  | .d3 => False

/-- The foreground operation in progress is at a label of its own pseudocode, on a unit that passed CheckInst
(R27, R121 to R125, R172, R173). -/
def State.FgSound (s : State) : Prop :=
  match s.fg.op with
  | none => True
  | some (.send i len _) => (s.uart i).usable = true ∧ (s.uart i).SendSound len s.fg.k s.fg.phase
  | some (.recv i circ len _) =>
    (s.uart i).usable = true ∧ (s.uart i).RecvSound circ len s.fg.k s.fg.phase ∧
    (s.fg.phase = .d2 ∨ s.fg.phase = .d3 → s.frame.init = true → i ≠ s.par.frameUnit)
  | some (.sendb i _) =>
    (s.uart i).usable = true ∧ (s.fg.phase = .p1 ∨ s.fg.phase = .p2 ∨ s.fg.phase = .p3)
  | some (.recvb i) => (s.uart i).usable = true ∧ (s.fg.phase = .p1 ∨ s.fg.phase = .p2)
  | some (.fsend len _) =>
    (s.uart s.par.frameUnit).usable = true ∧ (s.uart s.par.frameUnit).SendSound len s.fg.k s.fg.phase
  | some (.frecv _) => s.frame.init = true ∧ s.FrecvSound (s.uart s.par.frameUnit) s.fg.phase

/-- Every recorded BusFault is one of an address where MEM_VALID is false (R61, R62). -/
structure State.FaultsSound (s : State) : Prop where
  foreground : ∀ f, s.fgFault = some f → memValid s.par f.addr = false
  handler    : ∀ f, s.handlerFault = some f → memValid s.par f.addr = false
  channels   : ∀ i d f, (s.uart i).chFault.get d = some f → memValid s.par f.addr = false

/-- The invariant of the machine: what holds after reset and is kept by every step. -/
structure State.Inv (s : State) : Prop where
  params   : s.par.wf = true
  memory   : s.mem.wf
  config   : ∀ i, (s.uart i).ConfigSound s.par i
  slots    : ∀ i, (s.uart i).SlotsSound s.par i
  dispatch : ∀ i, (s.uart i).DispatchSound
  channels : ∀ i, (s.uart i).ChannelsSound i
  framing  : s.FramingSound (s.uart s.par.frameUnit)
  fg       : s.FgSound
  faults   : s.FaultsSound

/-! ### The framing protocol's start state -/

/-- The window is armed and empty, its stream runs, the framing handler is registered and its event enabled: the
start state of R185, with what FINIT has bound (R171). Neither the stream nor the host's interrupt context, which ends
the external handlers of a dispatch, is stuck by a BusFault (R61, R238). -/
structure State.FramingReady (s : State) : Prop where
  init    : s.frame.init = true
  usable  : (s.uart s.par.frameUnit).usable = true
  dmaRx   : (s.uart s.par.frameUnit).dmaRx = true
  ie      : enables (s.uart s.par.frameUnit).cfg.ie .idle = true
  masked  : (s.uart s.par.frameUnit).masked = false
  phase   : (s.uart s.par.frameUnit).dsp.phase = .idle
  rxr     : flag (s.uart s.par.frameUnit).sr .rxr = false
  handler : (s.uart s.par.frameUnit).hslot.get .idle = .frame
  others  : ∀ k, k ≠ .idle → (s.uart s.par.frameUnit).hslot.get k ≠ .frame
  dst     : (s.uart s.par.frameUnit).ch.rx.dst = .mem s.par.winBase
  len     : (s.uart s.par.frameUnit).ch.rx.len = s.par.frameCap
  circ    : (s.uart s.par.frameUnit).ch.rx.circ = true
  active  : (s.uart s.par.frameUnit).ch.rx.active = true
  cnt     : (s.uart s.par.frameUnit).ch.rx.cnt = s.par.frameCap
  off     : (s.uart s.par.frameUnit).ch.rx.off = 0#16
  live    : (s.uart s.par.frameUnit).chFault.rx = none
  host    : s.handlerFault = none

/-- Every byte of the ReceptionWindow is backed by memory (R248). -/
def State.WindowValid (s : State) : Prop := bufferValid s.par s.par.winBase s.par.frameCap

end Sys2Proof.Machine
end

