-- ==== Sys2Proof/Certificates/Slice0/Obligations.lean ====
section
/-! DEFINITION. The statements for the provers, in the order of OBLIGATIONS.json. Rules R<n> are those of spec/. -/

open Sys2Proof Sys2Proof.Machine

/-! ### The command word -/

/-- R77, R84, R95: decoding the command word of a well-formed operation gives the operation back, every operand at
every value its field admits. -/
def Obligations.DecodeOfEncodeIsTheOperation : Prop :=
  ∀ i : Instr, i.wf = true → decode (encode i) = .legal i

/-- R84, R92: a legal word is the one word of the operation it decodes to, which is well formed, so no encoding
executes as another operation. -/
def Obligations.EncodeOfDecodeIsTheWord : Prop :=
  ∀ (w : Word) (i : Instr), decode w = .legal i → i.wf = true ∧ encode i = w

/-- R89: decoding is total, and a word is legal exactly when it selects exactly one row of the opcode table and, if
that row is SETH's, its SUB is at most 6; the rows are disjoint (R84), and a legal word selects the row of the
operation it decodes to. -/
def Obligations.LegalWordsSelectExactlyOneRow : Prop :=
  ∀ w : Word,
    (opcodeTable.filter fun row => row.selects w).length ≤ 1 ∧
    ((∃ i, decode w = .legal i) ↔
      (opcodeTable.filter fun row => row.selects w).length = 1 ∧
        (fieldOp w = 0x06#8 → (fieldSub w).toNat ≤ 6)) ∧
    ∀ i, decode w = .legal i → i.row.selects w = true

/-- R84, R78, R85, R86, R31, R41: one word of each row of the opcode table, its fields written out, decodes to its
operation, and a word of each kind R90 calls illegal decodes to none; and the numbers of the units, of the event kinds
and of their enable bits, and the codes of the configuration enumerations. -/
def Obligations.WrittenOutWordsDecode : Prop :=
  decode 0x01100000#32 = .legal (.init 1#4) ∧
  decode 0x02100003#32 = .legal (.send 1#4 3#16) ∧
  decode 0x03210040#32 = .legal (.recv 2#4 true 64#16) ∧
  decode 0x03200040#32 = .legal (.recv 2#4 false 64#16) ∧
  decode 0x04500041#32 = .legal (.sendb 5#4 0x41#8) ∧
  decode 0x05600000#32 = .legal (.recvb 6#4) ∧
  decode 0x06340000#32 = .legal (.seth 3#4 4#4) ∧
  decode 0x08000000#32 = .legal .finit ∧
  decode 0x09000005#32 = .legal (.fsend 5#16) ∧
  decode 0x0A000000#32 = .legal .frecv ∧
  decode 0x10000000#32 = .legal .solveb ∧
  decode 0x11000000#32 = .legal .solvet ∧
  decode 0x20100000#32 = .legal (.rdsr 1#4) ∧
  decode 0x21100000#32 = .legal (.rddr 1#4) ∧
  decode 0x2210000D#32 = .legal (.wrdr 1#4 0x0D#8) ∧
  decode 0x2F300000#32 = .legal (.hret 3#4) ∧
  decode 0x07000000#32 = .illegal .unknownOp ∧
  decode 0x01110000#32 = .illegal .mustBeZero ∧
  decode 0x06370000#32 = .illegal .badKind ∧
  ((List.range 16).map fun n => unitOf (BitVec.ofNat 4 n)) =
    [none, some .u1, some .u2, some .u3, some .u4, some .u5, some .u6, none, none, none, none, none, none,
      none, none, none] ∧
  ((List.range 16).map fun n => kindOf (BitVec.ofNat 4 n)) =
    [some .cts, some .brk, some .txe, some .txc, some .rxr, some .idle, some .pe, none, none, none, none,
      none, none, none, none, none] ∧
  ((List.range 8).map fun n => modeOf (BitVec.ofNat 3 n)) =
    [.async, .sync, .irda, .lin, .smartcard, .smartcardClock, .halfDuplex, .disabled] ∧
  ((List.range 4).map fun n => flowOf (BitVec.ofNat 2 n)) = [.none, .cts, .rts, .ctsRts] ∧
  ((List.range 4).map fun n => stopOf (BitVec.ofNat 2 n)) = [.half, .one, .oneAndHalf, .two] ∧
  allKinds.map EventKind.num = [0, 1, 2, 3, 4, 5, 6] ∧
  allKinds.map EventKind.enableBit = [6, 5, 1, 2, 3, 4, 0]

/-- R90: an illegal command word (no row of the table matches it, or it is SETH with SUB 7 to 15) puts -1 in R[0] and
emits Ret(Illegal, R[0..3]); no other state changes and no operation starts. The model's own readings: that CMD holds
the word the host wrote (log entry 17), and that the effect is the same in the interrupt context (log entry 5). -/
def Obligations.IllegalWordOnlySetsTheResult : Prop :=
  ∀ (s : State) (w : Word), s.hostContext →
    (∀ row ∈ opcodeTable, row.selects w = false) ∨ (fieldOp w = 0x06#8 ∧ 7 ≤ (fieldSub w).toNat) →
    agentStep (.hostCommand w) s =
      .next { s with
        cmd := w
        r := { s.r with q0 := 0xFFFFFFFF#32 }
        trace := s.trace ++ [.ret .illegal { s.r with q0 := 0xFFFFFFFF#32 }] }

/-! ### Steps and acceptance -/

/-- R75: a step whose scheduled move is a write of CMD runs the operation the word decodes to, in the state with the
move taken off the schedule and CMD holding the word; `withFetchWord` schedules exactly that move first. An illegal
word written while an operation is in progress, in a foreground context that may step, has R90's effect and leaves the
operation in progress: that R90 holds there too is the model's reading (log entry 5), and so is what CMD holds then
(log entry 17). -/
def Obligations.StepRunsTheDecodedOperation : Prop :=
  ∀ (s : State) (w : Word) (rest : List Move),
    (∀ i : Instr, decode w = .legal i →
      (s.sched = .hostCommand w :: rest → step s = exec i { s with sched := rest, cmd := w }) ∧
      step (s.withFetchWord 32 w.toNat) = exec i { s with cmd := w }) ∧
    ∀ why : Illegal, decode w = .illegal why → s.foregroundMayAct = true → s.fg.op ≠ none →
      agentStep (.hostCommand w) s = .next ({ s with cmd := w }.ret .illegal 0xFFFFFFFF#32)

/-- The model's own (log entry 3): running a schedule to its end is making its moves one after the other, and the
schedule is neither read nor written by any move. -/
def Obligations.RunningAScheduleIsMakingItsMoves : Prop :=
  ∀ (ms : List Move) (s : State),
    Host.Core.run Sys2Proof.core ms.length { s with sched := ms } = runMoves ms { s with sched := [] }

/-- R94: where a legal command is refused and where it is not. Every dispatcher Idle: refused exactly while an
operation is in progress. Some dispatcher in an external handler: every operation but RDSR, RDDR, WRDR and HRET is
refused, and these four complete in one step and do not use FG unless a BusFault made the context stuck (R61).
Dispatchers running and none in a handler: the host has no move, whatever the command word. While any dispatcher is in
service the foreground takes no step (R17). -/
def Obligations.AcceptanceFollowsTheContext : Prop :=
  ∀ (i : Instr) (s : State), i.wf = true →
    ((∀ j, (s.uart j).dsp.phase = .idle) → (exec i s = .refused .busy ↔ s.fg.op ≠ none)) ∧
    ((∃ j k, (s.uart j).dsp.phase = .inHandler k) →
      (exec i s = .refused .interruptContext ↔ foregroundOnly i = true) ∧
      (foregroundOnly i = false → s.handlerFault = none → ∃ t, exec i s = .next t ∧ t.fg = s.fg)) ∧
    ((∃ j, (s.uart j).dsp.phase ≠ .idle) →
      agentStep .foreground s = .refused (.notEnabled .foreground) ∧
      ((∀ j k, (s.uart j).dsp.phase ≠ .inHandler k) →
        exec i s = .refused .hostHasNoMove ∧ ∀ w, agentStep (.hostCommand w) s = .refused .hostHasNoMove))

/-- R26: what presenting an operation leaves alone when the operation is accepted: memory, CMD, the operand registers,
the parameters, the schedule and the host's fault records; every unit but the one the operation is about; FRAME but
for FINIT; R[1] to R[3] but for the solver; and the trace only grows. -/
def Obligations.PresentedOperationsKeepTheRest : Prop :=
  ∀ (i : Instr) (s t : State), exec i s = .next t →
    t.mem = s.mem ∧ t.cmd = s.cmd ∧ t.a = s.a ∧ t.par = s.par ∧ t.sched = s.sched ∧
    t.fgFault = s.fgFault ∧ t.handlerFault = s.handlerFault ∧
    (∀ j, unitTouched s.par i ≠ some j → t.uart j = s.uart j) ∧
    (i ≠ .finit → t.frame = s.frame) ∧
    (i ≠ .solveb → i ≠ .solvet → t.r.q1 = s.r.q1 ∧ t.r.q2 = s.r.q2 ∧ t.r.q3 = s.r.q3) ∧
    ∃ evs, t.trace = s.trace ++ evs

/-! ### The prescaler solver -/

/-- R103, R104: the two-step computation of the baud divisor (integer part, then sixteenths rounded half up, a full
sixteenth carrying) equals one rounding, and SolveBaud's coarse and fine divisors are its two parts. -/
def Obligations.BaudDivisorIsOneRounding : Prop :=
  ∀ clk t : Nat, 0 < t → ∃ m0 q : Nat,
    (m0 : Int) = ⌊(clk : Rat) / (16 * t)⌋ ∧
    (q : Int) = ⌊((clk : Rat) / (16 * t) - m0) * 16 + 1 / 2⌋ ∧ q ≤ 16 ∧
    ((16 * m0 + q : Nat) : Int) = ⌊(clk : Rat) / t + 1 / 2⌋ ∧
    16 * m0 + q = (2 * clk + t) / (2 * t) ∧
    ∀ x, solveBaud clk t = some x →
      (q = 16 → x.coarse = m0 + 1 ∧ x.fine = 0) ∧ (q < 16 → x.coarse = m0 ∧ x.fine = q)

/-- R105, R106: SolveBaud has no solution exactly for a target of 0 and for a divisor, clk / t rounded, outside 16 to
65535, that is for clk / t below 15.5 or at least 65535.5. A solution's coarse divisor is 1 to 4095 and its fine
divisor 0 to 15; its actual frequency is the clock divided by 16 times the divisor m + q / 16, its error is the
relative error of that frequency in percent and at most 3.125; when the target divides the clock, the divisor is the
quotient and the error 0. -/
def Obligations.SolveBaudRangeAndError : Prop :=
  ∀ clk t : Nat,
    (solveBaud clk t = none ↔
      t = 0 ∨ ⌊(clk : Rat) / t + 1 / 2⌋ < 16 ∨ 65535 < ⌊(clk : Rat) / t + 1 / 2⌋) ∧
    (0 < t → (solveBaud clk t = none ↔ (clk : Rat) / t < 15.5 ∨ 65535.5 ≤ (clk : Rat) / t)) ∧
    ∀ x, solveBaud clk t = some x →
      (1 ≤ x.coarse ∧ x.coarse ≤ 4095 ∧ x.fine ≤ 15) ∧
      x.actualFreq.value = (clk : Rat) / (16 * ((x.coarse : Rat) + (x.fine : Rat) / 16)) ∧
      x.errorPercent.value = 100 * |x.actualFreq.value - t| / t ∧
      x.errorPercent.value ≤ 3.125 ∧
      (t ∣ clk → 16 * x.coarse + x.fine = clk / t ∧ x.errorPercent.value = 0)

/-- R101, R102, R113: SOLVEB (word 0x10000000) and SOLVET (0x11000000) in the foreground write the register image of
the solver's result for A[0] and A[1] into R[0..3] in one step and change nothing else but the trace. The image of a
tuple is whole in 32 bits: the divisors, the frequency rounded down, the error in parts per million rounded up; R[0]
is at least 1, R[3] at most 31250 (SOLVEB) or 500000 (SOLVET), and 0 exactly when the error is 0. NoSolution is 0, 0,
0 and -1, for SOLVEB where A[0] or A[1] is 0 or A[0] / A[1] is below 15.5 or at least 65535.5, for SOLVET where A[1]
is 0 or more than twice A[0]. -/
def Obligations.SolverOperationsWriteTheRegisterImage : Prop :=
  (decode 0x10000000#32 = .legal .solveb ∧ decode 0x11000000#32 = .legal .solvet) ∧
  ∀ (s : State) (clk t : Nat), s.foregroundFree → clk = s.a.q0.toNat → t = s.a.q1.toNat →
    (solveBaud clk t = none →
      exec .solveb s = .next (s.retAll .solveb ⟨0#32, 0#32, 0#32, 0xFFFFFFFF#32⟩)) ∧
    (t = 0 ∨ clk = 0 ∨ (clk : Rat) / t < 15.5 ∨ 65535.5 ≤ (clk : Rat) / t → solveBaud clk t = none) ∧
    (∀ x, solveBaud clk t = some x → ∃ r : Quad,
      exec .solveb s = .next (s.retAll .solveb r) ∧ x.Image r ∧
      1 ≤ r.q0.toNat ∧ r.q3.toNat ≤ 31250 ∧ (r.q3 = 0#32 ↔ x.errorPercent.value = 0)) ∧
    (solveTimer clk t = none →
      exec .solvet s = .next (s.retAll .solvet ⟨0#32, 0#32, 0#32, 0xFFFFFFFF#32⟩)) ∧
    (t = 0 ∨ 2 * clk < t → solveTimer clk t = none) ∧
    ∀ x, solveTimer clk t = some x → ∃ r : Quad,
      exec .solvet s = .next (s.retAll .solvet r) ∧ x.Image r ∧
      1 ≤ r.q0.toNat ∧ r.q3.toNat ≤ 500000 ∧ (r.q3 = 0#32 ↔ x.errorPercent.value = 0)

/-- R108 to R110, R114: SolveTimer returns a representable pair whose fine divisor is the nearest one (a half rounding
up), with the relative error of no candidate smaller and that of every candidate of a smaller coarse divisor greater;
its frequency and error are those of the pair, the error is at most 50 percent, and it is 0 where the target divides
the clock and some pair in range has the quotient as its product. -/
def Obligations.SolveTimerReturnsTheLeastError : Prop :=
  ∀ (clk t : Nat) (x : Solution), solveTimer clk t = some x →
    1 ≤ x.coarse ∧ x.coarse ≤ 65536 ∧ 1 ≤ x.fine ∧ x.fine ≤ 65536 ∧
    (x.fine : Int) = ⌊(clk : Rat) / (t * x.coarse) + 1 / 2⌋ ∧
    x.actualFreq.value = (clk : Rat) / (x.coarse * x.fine) ∧
    x.errorPercent.value = 100 * relativeError clk t (x.coarse * x.fine) ∧
    x.errorPercent.value = 100 * (|x.actualFreq.value - t| / t) ∧
    x.errorPercent.value ≤ 50 ∧
    (∀ c f : Nat, 1 ≤ c → c ≤ 65536 → (f : Int) = ⌊(clk : Rat) / (t * c) + 1 / 2⌋ →
      f = (2 * clk + t * c) / (2 * t * c) ∧
      (1 ≤ f → f ≤ 65536 →
        relativeError clk t (x.coarse * x.fine) ≤ relativeError clk t (c * f) ∧
        (c < x.coarse → relativeError clk t (x.coarse * x.fine) < relativeError clk t (c * f)))) ∧
    (∀ c f : Nat, 1 ≤ c → c ≤ 65536 → 1 ≤ f → f ≤ 65536 → clk = t * (c * f) → x.errorPercent.value = 0)

/-- R112: SolveTimer has no solution exactly when the target is 0 or no coarse divisor has a representable fine one,
which for 32-bit inputs is when the target is more than twice the clock; for the greatest clock and the target 1 the
candidate 65536 has the fine divisor 65536. -/
def Obligations.SolveTimerHasNoSolutionAboveTwiceTheClock : Prop :=
  (∀ clk t : Nat,
    (solveTimer clk t = none ↔
      t = 0 ∨ ∀ c, 1 ≤ c → c ≤ 65536 →
        (2 * clk + t * c) / (2 * t * c) < 1 ∨ 65536 < (2 * clk + t * c) / (2 * t * c)) ∧
    (clk < 2 ^ 32 → t < 2 ^ 32 → 1 ≤ t → (solveTimer clk t = none ↔ 2 * clk < t))) ∧
  timerCandidate (2 ^ 32 - 1) 1 65536 = some ⟨65536, 65536, 1, 2 ^ 32⟩

/-! ### The registry -/

/-- R151, R152, R158, R82: INIT, whose word is 0x01 ++ i ++ 0x0 ++ 0x0000. Of an unbound unit that passes every check
it binds the unit in one step: the configuration is A[0] and the fields of A[1], the divisor is 16 * coarse + fine of
the baud solver or 0 when disabled, txe and txc are set and the other flags and RXACT clear, R[0] is 0, and nothing
else changes. On a field that names no unit, a non-zero A[1][31:17], a baud rate of 0, an unsupported configuration or
a target without a solution it puts -1 in R[0] and leaves everything else but the trace as it was. A bound unit is
refused. -/
def Obligations.InitBindsTheUnit : Prop :=
  ∀ (s : State) (cfg : UartConfig), s.foregroundFree →
    cfg = ⟨s.a.q0, modeOf (s.a.q1.extractLsb' 0 3), flowOf (s.a.q1.extractLsb' 3 2),
      stopOf (s.a.q1.extractLsb' 5 2), s.a.q1.extractLsb' 7 8, s.a.q1.extractLsb' 15 2⟩ →
    (∀ n : BitVec 4, decode (0x01#8 ++ n ++ 0#4 ++ 0#16) = .legal (.init n) ∧
      (namesNoUnit n → exec (.init n) s = .next (s.ret .init 0xFFFFFFFF#32))) ∧
    ∀ i : Unit6,
      ((s.uart i).cfgv = true → exec (.init (unitNumber i)) s = .refused (.rebind i)) ∧
      ((s.uart i).cfgv = false →
        s.a.q1.extractLsb' 17 15 ≠ 0#15 ∨ s.a.q0 = 0#32 ∨ cfg ∈ s.par.unsupported ∨
          (cfg.mode ≠ .disabled ∧ solveBaud (s.par.pclk.get i).toNat s.a.q0.toNat = none) →
        exec (.init (unitNumber i)) s = .next (s.ret .init 0xFFFFFFFF#32)) ∧
      ∀ brr : Half, (s.uart i).cfgv = false →
        s.a.q1.extractLsb' 17 15 = 0#15 → s.a.q0 ≠ 0#32 → cfg ∉ s.par.unsupported →
        (cfg.mode = .disabled ∧ brr = 0#16 ∨
          cfg.mode ≠ .disabled ∧ ∃ x, solveBaud (s.par.pclk.get i).toNat s.a.q0.toNat = some x ∧
            brr.toNat = 16 * x.coarse + x.fine) →
        exec (.init (unitNumber i)) s =
          .next ((s.setUart i { s.uart i with
            cfgv := true, cfg := cfg, brr := brr, sr := 0b0001100#7, rxact := false }).ret .init 0#32)

/-- R153: SETH, whose word is 0x06 ++ i ++ k ++ 0x0000, stores NONE for token 0 and EXT(A[0]) for any other in the
slot of its kind, on a bound or unbound unit, in place of whatever the slot held, and changes no other slot and
nothing else but R[0] and the trace; a field that names no unit gives -1 and changes nothing; outside the foreground
context it is refused. -/
def Obligations.SethRegistersTheToken : Prop :=
  ∀ (s : State) (k : EventKind) (n : BitVec 4),
    decode (0x06#8 ++ n ++ BitVec.ofNat 4 k.num ++ 0#16) = .legal (.seth n (BitVec.ofNat 4 k.num)) ∧
    (s.allIdle = false → ∃ why, exec (.seth n (BitVec.ofNat 4 k.num)) s = .refused why) ∧
    (s.foregroundFree →
      (∀ i : Unit6, ∃ slots : PerKind Slot,
        (∀ j, slots.get j =
          if j = k then (if s.a.q0 = 0#32 then .empty else .ext s.a.q0) else (s.uart i).hslot.get j) ∧
        exec (.seth (unitNumber i) (BitVec.ofNat 4 k.num)) s =
          .next ((s.setUart i { s.uart i with hslot := slots }).ret .seth 0#32)) ∧
      (namesNoUnit n → exec (.seth n (BitVec.ofNat 4 k.num)) s = .next (s.ret .seth 0xFFFFFFFF#32)))

/-- R154 to R156: the three register accesses, in both contexts and on a bound or unbound unit. RDSR (word 0x20 ++ i
++ 0x0 ++ 0x0000) puts the status register zero-extended in R[0]. RDDR (0x21 ++ i ++ 0x0 ++ 0x0000) puts the receive
data register zero-extended in R[0], a stale byte included, and clears rxr and no other flag. WRDR (0x22 ++ i ++ 0x0
++ 0x00 ++ value) writes the transmit data register, whether or not a byte waits, and clears txe and txc and no other
flag. Nothing else changes but R[0] and the trace; a field that names no unit gives -1 and changes nothing. -/
def Obligations.RegisterAccessesReadAndWrite : Prop :=
  ∀ (s : State) (v : Byte), s.hostContext →
    (∀ n : BitVec 4, decode (0x20#8 ++ n ++ 0#4 ++ 0#16) = .legal (.rdsr n) ∧
      decode (0x21#8 ++ n ++ 0#4 ++ 0#16) = .legal (.rddr n) ∧
      decode (0x22#8 ++ n ++ 0#4 ++ 0#8 ++ v) = .legal (.wrdr n v)) ∧
    (∀ i, exec (.rdsr (unitNumber i)) s = .next (s.ret .rdsr ((s.uart i).sr.setWidth 32))) ∧
    (∀ i, ∃ sr : BitVec 7, (∀ k, flag sr k = (!decide (k = .rxr) && flag (s.uart i).sr k)) ∧
      exec (.rddr (unitNumber i)) s =
        .next ((s.setUart i { s.uart i with sr := sr }).ret .rddr ((s.uart i).rdr.setWidth 32))) ∧
    (∀ i, ∃ sr : BitVec 7,
      (∀ k, flag sr k = (!decide (k = .txe ∨ k = .txc) && flag (s.uart i).sr k)) ∧
      exec (.wrdr (unitNumber i) v) s =
        .next ((s.setUart i { s.uart i with tdr := v, sr := sr }).ret .wrdr 0#32)) ∧
    ∀ n, namesNoUnit n → exec (.rdsr n) s = .next (s.ret .rdsr 0xFFFFFFFF#32) ∧
      exec (.rddr n) s = .next (s.ret .rddr 0xFFFFFFFF#32) ∧
      exec (.wrdr n v) s = .next (s.ret .wrdr 0xFFFFFFFF#32)

/-- R78, R161, R125, R224, R232: every operation that takes a unit, given a field that names none, and SEND, RECV,
SENDB and RECVB of a unit, and FSEND on the framing unit, that is unbound or disabled, put -1 in R[0] and change
nothing else but the trace, where FSEND's return is named FSEND (log entry 18). -/
def Obligations.UnknownOrUnusableUnitIsAConfigurationError : Prop :=
  (∀ (i : Instr) (s : State) (n : BitVec 4), i.wf = true → unitField i = some n → namesNoUnit n → s.accepts i →
    exec i s = .next (s.ret (opName i) 0xFFFFFFFF#32)) ∧
  ∀ (s : State) (j : Unit6) (len : Half) (circ : Bool) (v : Byte), s.foregroundFree →
    (s.uart j).cfgv = false ∨ (s.uart j).cfg.mode = .disabled →
    (∀ i ∈ [Instr.send (unitNumber j) len, .recv (unitNumber j) circ len, .sendb (unitNumber j) v,
        .recvb (unitNumber j)], exec i s = .next (s.ret (opName i) 0xFFFFFFFF#32)) ∧
    (j = s.par.frameUnit → exec (.fsend len) s = .next (s.ret .fsend 0xFFFFFFFF#32))

/-! ### The transfer engine -/

/-- R121, R172, label S0: SEND and FSEND on a usable unit. Length 0 returns 0 at once and touches nothing; length 1,
or no transmit DMA, starts the polled path at byte 0; otherwise the DMA path starts; the operands are latched. That S0
runs in the step that accepts the command is log entry 4, the name FSEND in the trace log entry 18. -/
def Obligations.SendStartsOnItsPath : Prop :=
  ∀ (s : State) (i : Unit6) (len : Half), s.foregroundFree → (s.uart i).usable = true →
    ∀ f ∈ sendForms s.par i len s.a.q0,
      (len = 0#16 → exec f.1 s = .next (s.ret f.2.1 0#32)) ∧
      (len ≠ 0#16 → len = 1#16 ∨ (s.uart i).cfg.dmaen.getLsbD 1 = false →
        exec f.1 s = .next { s with fg := { s.fg with op := some f.2.2, phase := .p1, k := 0#16 } }) ∧
      (len ≠ 0#16 → len ≠ 1#16 → (s.uart i).cfg.dmaen.getLsbD 1 = true →
        exec f.1 s = .next { s with fg := { s.fg with op := some f.2.2, phase := .d1 } })

/-- R122 to R124, R173, label S0: RECV, SENDB and RECVB on a usable unit and FRECV after FINIT start at their first
label with their operands latched; RECV of length 0 returns 0 at once and touches nothing; FRECV before FINIT gives -1
and changes nothing. That S0 runs in the step that accepts the command is log entry 4. -/
def Obligations.ReceivesAndByteOperationsStart : Prop :=
  ∀ (s : State) (i : Unit6) (circ : Bool) (len : Half) (v : Byte), s.foregroundFree →
    ((s.uart i).usable = true →
      exec (.recv (unitNumber i) circ 0#16) s = .next (s.ret .recv 0#32) ∧
      (len ≠ 0#16 → (s.uart i).cfg.dmaen.getLsbD 0 = false →
        exec (.recv (unitNumber i) circ len) s =
          .next { s with fg := { s.fg with op := some (.recv i circ len s.a.q0), phase := .p1, k := 0#16 } }) ∧
      (len ≠ 0#16 → (s.uart i).cfg.dmaen.getLsbD 0 = true →
        exec (.recv (unitNumber i) circ len) s =
          .next { s with fg := { s.fg with op := some (.recv i circ len s.a.q0), phase := .d1 } }) ∧
      exec (.sendb (unitNumber i) v) s =
        .next { s with fg := { s.fg with op := some (.sendb i v), phase := .p1 } } ∧
      exec (.recvb (unitNumber i)) s = .next { s with fg := { s.fg with op := some (.recvb i), phase := .p1 } }) ∧
    (s.frame.init = true →
      exec .frecv s = .next { s with fg := { s.fg with op := some (.frecv s.a.q0), phase := .w1 } }) ∧
    (s.frame.init = false → exec .frecv s = .next (s.ret .frecv 0xFFFFFFFF#32))

/-- R121, R128, R129: a polled SEND or FSEND of len bytes, its unit's line taking each byte, transmits exactly the
buffer's len bytes in ascending address order and returns 0; memory, FRAME, the channels and every other unit are as
before, and of its unit only the data register and the two transmit flags, set at the end, change. The name FSEND in
the trace is log entry 18. -/
def Obligations.PolledSendTransmitsTheBuffer : Prop :=
  ∀ (s : State) (i : Unit6) (len : Half), s.foregroundFree → (s.uart i).usable = true →
    len ≠ 0#16 → len = 1#16 ∨ (s.uart i).dmaTx = false → bufferValid s.par s.a.q0 len →
    ∀ f ∈ sendForms s.par i len s.a.q0, ∃ (t : State) (b : Byte) (sr : BitVec 7),
      presentThen f.1
        (repeated len.toNat [.foreground, .txShift i, .foreground, .foreground]) s = .next t ∧
      t.r = { s.r with q0 := 0#32 } ∧ t.fg.op = none ∧
      t.trace = s.trace ++ (bufferBytes s.mem s.a.q0 len).map (.tx i) ++ [.ret f.2.1 t.r] ∧
      t.mem = s.mem ∧ t.frame = s.frame ∧ t.a = s.a ∧ (∀ j, j ≠ i → t.uart j = s.uart j) ∧
      (bufferBytes s.mem s.a.q0 len).getLast? = some b ∧
      t.uart i = { s.uart i with tdr := b, sr := sr } ∧
      ∀ k, flag sr k = (decide (k = .txe ∨ k = .txc) || flag (s.uart i).sr k)

/-- R121, R129 to R131, R134, R135: a SEND or FSEND of two or more bytes by DMA, its channel and line taking each
byte, triggers once, transmits exactly the buffer's len bytes in ascending address order, after a byte that was still
waiting in the data register, and returns 0 after the completion callback, its signal cleared and its channel stopped
at the end of the buffer; memory, FRAME, the receive channel and every other unit are as before. The name FSEND in the
trace is log entry 18. -/
def Obligations.DmaSendTransmitsTheBuffer : Prop :=
  ∀ (s : State) (i : Unit6) (len : Half) (waiting : Bool), s.foregroundFree → (s.uart i).usable = true →
    2 ≤ len.toNat → (s.uart i).dmaTx = true → bufferValid s.par s.a.q0 len →
    (s.uart i).ch.tx.active = false → (s.uart i).ch.tx.done = false → (s.uart i).chFault.tx = none →
    waiting = !flag (s.uart i).sr .txe →
    ∀ f ∈ sendForms s.par i len s.a.q0, ∃ (t : State) (b : Byte) (sr : BitVec 7),
      presentThen f.1
        (.foreground :: (if waiting then [.txShift i] else []) ++ repeated len.toNat [.txMove i, .txShift i] ++
        [.dmaDone i .tx, .foreground, .foreground]) s = .next t ∧
      t.r = { s.r with q0 := 0#32 } ∧ t.fg.op = none ∧
      t.trace = s.trace ++ [.trigger i .tx] ++ (if waiting then [.tx i (s.uart i).tdr] else []) ++
        (bufferBytes s.mem s.a.q0 len).map (.tx i) ++ [.ret f.2.1 t.r] ∧
      t.mem = s.mem ∧ t.frame = s.frame ∧ t.a = s.a ∧ (∀ j, j ≠ i → t.uart j = s.uart j) ∧
      (bufferBytes s.mem s.a.q0 len).getLast? = some b ∧
      t.uart i = { s.uart i with
        tdr := b, sr := sr, sig := ⟨(s.uart i).sig.rx, false⟩,
        ch := ⟨(s.uart i).ch.rx, ⟨.memToPeriph, 0#2, .mem s.a.q0, .dr i, len, false, s.par.prioTx, 0#16, len,
          false, false⟩⟩ } ∧
      ∀ k, flag sr k = (decide (k = .txe ∨ k = .txc) || flag (s.uart i).sr k)

/-- R127: SEND or FSEND of length 0 or 1, or without transmit DMA, and SENDB, emit no Trigger event and leave every
field of every channel unchanged: accepting them does, and then each step of the polled path does and stays on it or
ends the operation. -/
def Obligations.NoTriggerOnThePolledSendPath : Prop :=
  (∀ (s t : State) (i : Unit6) (len : Half) (v : Byte),
    (∃ f ∈ sendForms s.par i len s.a.q0,
      (len.toNat ≤ 1 ∨ (s.uart i).dmaTx = false) ∧ exec f.1 s = .next t) ∨
      exec (.sendb (unitNumber i) v) s = .next t →
    (∀ j, (t.uart j).ch = (s.uart j).ch) ∧ (∃ evs, t.trace = s.trace ++ evs ∧ ∀ j d, Ev.trigger j d ∉ evs) ∧
      (t.fg.op = none ∨ t.polledSending)) ∧
  ∀ s t : State, s.polledSending → agentStep .foreground s = .next t →
    (∀ j, (t.uart j).ch = (s.uart j).ch) ∧ (∃ evs, t.trace = s.trace ++ evs ∧ ∀ j d, Ev.trigger j d ∉ evs) ∧
      (t.fg.op = none ∨ t.polledSending)

/-- R122, R128: a polled RECV of len bytes, circular or not, stores exactly len bytes in order and returns 0: a byte
already waiting at the start first, then those the line delivers, one before each read; no other byte of memory
changes, and of the state only its unit's receive side does. -/
def Obligations.PolledRecvStoresTheBytes : Prop :=
  ∀ (s : State) (i : Unit6) (circ : Bool) (len : Half) (b0 : Byte) (bs : List Byte), s.foregroundFree →
    s.mem.wf → (s.uart i).usable = true → (s.uart i).dmaRx = false →
    (flag (s.uart i).sr .rxr = true → b0 = (s.uart i).rdr) →
    (b0 :: bs).length = len.toNat → bufferValid s.par s.a.q0 len →
    ∃ (t : State) (b : Byte) (sr : BitVec 7),
      presentThen (.recv (unitNumber i) circ len)
        ((if flag (s.uart i).sr .rxr then [] else [.rxByte i b0]) ++ [.foreground, .foreground] ++
          bs.flatMap fun b => [.rxByte i b, .foreground, .foreground]) s = .next t ∧
      t.r = { s.r with q0 := 0#32 } ∧ t.fg.op = none ∧ t.trace = s.trace ++ [.ret .recv t.r] ∧
      holdsBytes t.mem s.a.q0 (b0 :: bs) ∧ sameOutside s.mem t.mem s.a.q0 len.toNat ∧
      t.frame = s.frame ∧ t.a = s.a ∧ (∀ j, j ≠ i → t.uart j = s.uart j) ∧ (b0 :: bs).getLast? = some b ∧
      t.uart i = { s.uart i with
        rdr := b, sr := sr, rxact := (s.uart i).rxact || !flag (s.uart i).sr .rxr || !bs.isEmpty } ∧
      ∀ k, flag sr k = (!decide (k = .rxr) && flag (s.uart i).sr k)

/-- R122, R130, R131, R133, R135, R71: a one-shot RECV by DMA, the line delivering len bytes, triggers once, stores
exactly those bytes in order and returns 0 after the completion callback, its signal cleared and its channel stopped
at the end of the buffer; no other byte of memory changes, and of the state only its unit's receive side does. -/
def Obligations.OneShotRecvStoresTheBytes : Prop :=
  ∀ (s : State) (i : Unit6) (len : Half) (bs : List Byte), s.foregroundFree → s.mem.wf →
    (s.uart i).usable = true → (s.uart i).dmaRx = true → flag (s.uart i).sr .rxr = false →
    (s.uart i).ch.rx.active = false → (s.uart i).ch.rx.done = false → (s.uart i).chFault.rx = none →
    bs.length = len.toNat → len ≠ 0#16 → bufferValid s.par s.a.q0 len →
    ∃ (t : State) (b : Byte),
      presentThen (.recv (unitNumber i) false len)
        (.foreground :: delivered i bs ++ [.dmaDone i .rx, .foreground, .foreground]) s = .next t ∧
      t.r = { s.r with q0 := 0#32 } ∧ t.fg.op = none ∧
      t.trace = s.trace ++ [.trigger i .rx, .ret .recv t.r] ∧
      holdsBytes t.mem s.a.q0 bs ∧ sameOutside s.mem t.mem s.a.q0 len.toNat ∧
      t.frame = s.frame ∧ t.a = s.a ∧ (∀ j, j ≠ i → t.uart j = s.uart j) ∧ bs.getLast? = some b ∧
      t.uart i = { s.uart i with
        rdr := b, rxact := true, sig := ⟨false, (s.uart i).sig.tx⟩,
        ch := ⟨⟨.periphToMem, 0#2, .dr i, .mem s.a.q0, len, false, s.par.prioRx, 0#16, len, false, false⟩,
          (s.uart i).ch.tx⟩ }

/-- R122, R130, R131: RECV's label D1. The free receive channel is armed with the operation's operands and triggered;
a circular RECV ends there with 0 and its stream left running, a one-shot one goes on to wait. With no byte waiting
nothing else changes; a byte already waiting is taken as byte 0 in the same step, unless a BusFault has made the
channel stuck (R61): that the step then goes on, no byte moved, is log entry 8. What FG.phase, FG.k and FG.n hold
after a circular RECV has ended is log entry 13, the offset of a length of 0 log entry 12. -/
def Obligations.RecvTriggerTakesAWaitingByte : Prop :=
  ∀ (s : State) (i : Unit6) (circ : Bool) (len : Half) (buf : Word), s.foregroundMayAct = true →
    s.fg.op = some (.recv i circ len buf) → s.fg.phase = .d1 →
    (s.uart i).ch.rx.active = false → (s.uart i).ch.rx.done = false →
    ∃ s' : State, s' = (s.setUart i { s.uart i with
        ch := ⟨⟨.periphToMem, 0#2, .dr i, .mem buf, len, circ, s.par.prioRx, len, 0#16, true, false⟩,
          (s.uart i).ch.tx⟩ }).emit (.trigger i .rx) ∧
      (flag (s.uart i).sr .rxr = false ∨ (s.uart i).dmaRx = false ∨ (s.uart i).chFault.rx ≠ none →
        agentStep .foreground s = .next (if circ = true then
          { s' with fg := { s'.fg with op := none } }.ret .recv 0#32
          else { s' with fg := { s'.fg with phase := .d2 } })) ∧
      (flag (s.uart i).sr .rxr = true → (s.uart i).dmaRx = true → (s.uart i).chFault.rx = none →
        memValid s.par (byteAddr buf 0#16) = true →
        ∃ (t : State) (sr : BitVec 7),
          (∀ k, flag sr k = (!decide (k = .rxr) && flag (s.uart i).sr k)) ∧
          t = { s'.setUart i { s'.uart i with
              sr := sr
              ch := ⟨{ (s'.uart i).ch.rx with
                cnt := len - 1#16
                off := if circ = true then BitVec.ofNat 16 (1 % len.toNat) else 1#16
                active := circ || decide (len ≠ 1#16)
                done := !circ && decide (len = 1#16) }, (s.uart i).ch.tx⟩ } with
            mem := s.mem.write (byteAddr buf 0#16).toNat (s.uart i).rdr } ∧
          agentStep .foreground s = .next (if circ = true then
            { t with fg := { t.fg with op := none } }.ret .recv 0#32
            else { t with fg := { t.fg with phase := .d2 } }))

/-- R123, R124: SENDB transmits its byte and returns 0; RECVB returns the byte already waiting in the data register,
or else the byte the line delivers where no stream takes it, zero-extended, and clears rxr. Neither touches memory, a
channel or another unit. What FG.phase holds after the return is log entry 13. -/
def Obligations.ByteOperationsMoveOneByte : Prop :=
  ∀ (s : State) (i : Unit6) (v : Byte), s.foregroundFree → (s.uart i).usable = true →
    (∃ (t : State) (sr : BitVec 7),
      presentThen (.sendb (unitNumber i) v)
        [.foreground, .txShift i, .foreground, .foreground] s = .next t ∧
      (∀ k, flag sr k = (decide (k = .txe ∨ k = .txc) || flag (s.uart i).sr k)) ∧
      t = ({ s with
        fg := { s.fg with op := none, phase := .p3 }
        uarts := s.uarts.set i { s.uart i with tdr := v, sr := sr } }.emit (.tx i v)).ret .sendb 0#32) ∧
    (flag (s.uart i).sr .rxr = true → ∃ sr : BitVec 7,
      (∀ k, flag sr k = (!decide (k = .rxr) && flag (s.uart i).sr k)) ∧
      presentThen (.recvb (unitNumber i)) [.foreground, .foreground] s =
        .next ({ s with
          fg := { s.fg with op := none, phase := .p2 }
          uarts := s.uarts.set i { s.uart i with sr := sr } }.ret .recvb ((s.uart i).rdr.setWidth 32))) ∧
    (flag (s.uart i).sr .rxr = false → (s.uart i).ch.rx.active = false ∨ (s.uart i).dmaRx = false →
      presentThen (.recvb (unitNumber i))
        [.rxByte i v, .foreground, .foreground] s =
        .next ({ s with
          fg := { s.fg with op := none, phase := .p2 }
          uarts := s.uarts.set i { s.uart i with rdr := v, rxact := true } }.ret .recvb (v.setWidth 32)))

/-- R12, R21, R126, R235: each of the block's waits, its condition not yet true, is a foreground step that changes
nothing, so no operation times out. -/
def Obligations.WaitsChangeNothing : Prop :=
  ∀ (s : State) (i : Unit6) (circ : Bool) (len : Half) (buf : Word) (v : Byte), s.foregroundMayAct = true →
    (s.fg.op = some (.send i len buf) ∨ s.fg.op = some (.fsend len buf) ∧ i = s.par.frameUnit ∨
        s.fg.op = some (.sendb i v)) ∧ s.fg.phase = .p2 ∧ flag (s.uart i).sr .txe = false ∨
      (s.fg.op = some (.send i len buf) ∨ s.fg.op = some (.fsend len buf) ∧ i = s.par.frameUnit) ∧
        s.fg.phase = .d2 ∧ (s.uart i).sig.tx = false ∨
      (s.fg.op = some (.recv i circ len buf) ∨ s.fg.op = some (.recvb i)) ∧ s.fg.phase = .p1 ∧
        flag (s.uart i).sr .rxr = false ∨
      s.fg.op = some (.recv i circ len buf) ∧ s.fg.phase = .d2 ∧ (s.uart i).sig.rx = false ∨
      s.fg.op = some (.frecv buf) ∧ i = s.par.frameUnit ∧ s.fg.phase = .w1 ∧ (s.uart i).sig.rx = false →
    agentStep .foreground s = .next s

/-- R134, R135: the channel's own steps. TxMove is enabled exactly with transmit DMA enabled, the stream active and
txe set, its channel not stuck (R61); it moves the byte at the stream's offset to the data register, clears txe and
txc, advances the offset and decrements the counter, and completes at 0. DmaDone is enabled exactly while a completion
is pending and its channel is not stuck; it sets the channel's CompletionSignal and clears the pending bit, whatever
the dispatchers do. Nothing else changes. -/
def Obligations.ChannelStepsMoveBytesAndSignal : Prop :=
  ∀ (s : State) (i : Unit6) (d : Dir) (base : Word),
    ((s.uart i).cfg.dmaen.getLsbD 1 = false ∨ (s.uart i).ch.tx.active = false ∨
      flag (s.uart i).sr .txe = false ∨ (s.uart i).chFault.tx ≠ none →
      agentStep (.txMove i) s = .refused (.notEnabled (.txMove i))) ∧
    ((s.uart i).cfg.dmaen.getLsbD 1 = true → (s.uart i).ch.tx.active = true →
      flag (s.uart i).sr .txe = true → (s.uart i).chFault.tx = none → (s.uart i).ch.tx.src = .mem base →
      memValid s.par (byteAddr base (s.uart i).ch.tx.off) = true → ∃ sr : BitVec 7,
        (∀ k, flag sr k = (!decide (k = .txe ∨ k = .txc) && flag (s.uart i).sr k)) ∧
        agentStep (.txMove i) s = .next (s.setUart i { s.uart i with
          tdr := s.mem.read (byteAddr base (s.uart i).ch.tx.off).toNat
          sr := sr
          ch := ⟨(s.uart i).ch.rx, { (s.uart i).ch.tx with
            off := (s.uart i).ch.tx.off + 1#16
            cnt := (s.uart i).ch.tx.cnt - 1#16
            active := decide ((s.uart i).ch.tx.cnt ≠ 1#16)
            done := decide ((s.uart i).ch.tx.cnt = 1#16) || (s.uart i).ch.tx.done }⟩ })) ∧
    (((s.uart i).ch.get d).done = false ∨ (s.uart i).chFault.get d ≠ none →
      agentStep (.dmaDone i d) s = .refused (.notEnabled (.dmaDone i d))) ∧
    (((s.uart i).ch.get d).done = true → (s.uart i).chFault.get d = none →
      agentStep (.dmaDone i d) s = .next (s.setUart i { s.uart i with
        sig := (s.uart i).sig.set d true
        ch := (s.uart i).ch.set d { (s.uart i).ch.get d with done := false } }))

/-- R136: no move makes a running circular receive stream's channel complete, and its receive signal is set, if at
all, by the framing handler's last step alone. -/
def Obligations.CircularStreamNeverCompletes : Prop :=
  ∀ (s t : State) (m : Move) (i : Unit6), (s.uart i).ch.rx.circ = true → (s.uart i).ch.rx.active = true →
    (s.uart i).ch.rx.done = false → agentStep m s = .next t →
    (t.uart i).ch.rx.done = false ∧ (t.uart i).ch.rx.circ = true ∧
    ((s.uart i).sig.rx = false → (t.uart i).sig.rx = true →
      m = .dispatcher i ∧ (s.uart i).dsp.phase = .frame .f5)

/-- R138: an operation that would arm or trigger a channel that is active or has a completion pending is refused:
SEND, FSEND and RECV in their step D1, FINIT when it is presented; and so is a RECV by DMA on the framing unit once
FINIT has succeeded. -/
def Obligations.OverlappingTransfersAreRefused : Prop :=
  (∀ (s : State) (i : Unit6) (circ : Bool) (len : Half) (buf : Word), s.foregroundMayAct = true → s.fg.phase = .d1 →
    ((s.uart i).ch.tx.active = true ∨ (s.uart i).ch.tx.done = true →
      s.fg.op = some (.send i len buf) ∨ s.fg.op = some (.fsend len buf) ∧ i = s.par.frameUnit →
      agentStep .foreground s = .refused (.overlap i .tx)) ∧
    ((s.uart i).ch.rx.active = true ∨ (s.uart i).ch.rx.done = true →
      s.fg.op = some (.recv i circ len buf) → agentStep .foreground s = .refused (.overlap i .rx)) ∧
    (s.Inv → s.frame.init = true → s.fg.op = some (.recv s.par.frameUnit circ len buf) →
      agentStep .foreground s = .refused (.overlap s.par.frameUnit .rx))) ∧
  ∀ (s : State) (i : Unit6) (x : Solution), s.foregroundFree → i = s.par.frameUnit →
    (s.uart i).ch.rx.active = true ∨ (s.uart i).ch.rx.done = true →
    (s.uart i).cfgv = false → unpackOptions s.a.q0 framingOptions ∉ s.par.unsupported →
    solveBaud (s.par.pclk.get i).toNat s.a.q0.toNat = some x →
    exec .finit s = .refused (.overlap i .rx)

/-! ### The line agents -/

/-- R197, R133: RxByte on a usable unit. With an untaken byte waiting the new one is dropped and only RXACT changes;
otherwise it is latched with rxr set; an active receive stream that is not stuck (R61) moves it to memory in the same
step, leaving rxr clear, decrements the counter modulo 2^16 and advances the offset, wrapping it in circular mode and
completing at 0 in one-shot mode. Nothing else changes. That over a stuck channel the byte is latched all the same is
log entry 8. -/
def Obligations.RxByteIsLatchedOrDroppedOrStored : Prop :=
  ∀ (s : State) (i : Unit6) (b : Byte) (base : Word), (s.uart i).usable = true →
    (flag (s.uart i).sr .rxr = true →
      agentStep (.rxByte i b) s = .next (s.setUart i { s.uart i with rxact := true })) ∧
    (flag (s.uart i).sr .rxr = false →
      (s.uart i).cfg.dmaen.getLsbD 0 = false ∨ (s.uart i).ch.rx.active = false ∨ (s.uart i).chFault.rx ≠ none →
      ∃ sr : BitVec 7,
        (∀ k, flag sr k = (decide (k = .rxr) || flag (s.uart i).sr k)) ∧
        agentStep (.rxByte i b) s = .next (s.setUart i { s.uart i with rxact := true, rdr := b, sr := sr })) ∧
    (flag (s.uart i).sr .rxr = false → (s.uart i).cfg.dmaen.getLsbD 0 = true →
      (s.uart i).ch.rx.active = true → (s.uart i).chFault.rx = none → (s.uart i).ch.rx.dst = .mem base →
      memValid s.par (byteAddr base (s.uart i).ch.rx.off) = true →
      agentStep (.rxByte i b) s = .next
        { s.setUart i { s.uart i with
            rxact := true
            rdr := b
            ch := ⟨{ (s.uart i).ch.rx with
              cnt := (s.uart i).ch.rx.cnt - 1#16
              off := if (s.uart i).ch.rx.circ = true then
                BitVec.ofNat 16 (((s.uart i).ch.rx.off.toNat + 1) % (s.uart i).ch.rx.len.toNat)
                else (s.uart i).ch.rx.off + 1#16
              active := (s.uart i).ch.rx.circ || decide ((s.uart i).ch.rx.cnt ≠ 1#16)
              done := (!(s.uart i).ch.rx.circ && decide ((s.uart i).ch.rx.cnt = 1#16)) ||
                (s.uart i).ch.rx.done }, (s.uart i).ch.tx⟩ } with
          mem := s.mem.write (byteAddr base (s.uart i).ch.rx.off).toNat b })

/-- R198, R199, R201 to R203, R196: the other five line events on a usable unit. IdleEvent needs RXACT, sets idle and
clears RXACT; TxShift needs a waiting byte, emits it and sets txe and txc; the CTS, break and parity events set their
flag. Nothing else changes. No step of the line agent of an unbound or disabled unit is enabled. -/
def Obligations.LineEventsSetTheirFlags : Prop :=
  (∀ (s : State) (i : Unit6), (s.uart i).usable = true →
    ((s.uart i).rxact = true → ∃ sr : BitVec 7,
      (∀ k, flag sr k = (decide (k = .idle) || flag (s.uart i).sr k)) ∧
      agentStep (.idleEvent i) s = .next (s.setUart i { s.uart i with sr := sr, rxact := false })) ∧
    ((s.uart i).rxact = false → agentStep (.idleEvent i) s = .refused (.notEnabled (.idleEvent i))) ∧
    (flag (s.uart i).sr .txe = false → ∃ sr : BitVec 7,
      (∀ k, flag sr k = (decide (k = .txe ∨ k = .txc) || flag (s.uart i).sr k)) ∧
      agentStep (.txShift i) s = .next ((s.setUart i { s.uart i with sr := sr }).emit (.tx i (s.uart i).tdr))) ∧
    (flag (s.uart i).sr .txe = true → agentStep (.txShift i) s = .refused (.notEnabled (.txShift i))) ∧
    ∀ m k, (m, k) ∈ [(Move.ctsEvent i, EventKind.cts), (Move.breakEvent i, EventKind.brk),
        (Move.parityEvent i, EventKind.pe)] → ∃ sr : BitVec 7,
      (∀ j, flag sr j = (decide (j = k) || flag (s.uart i).sr j)) ∧
      agentStep m s = .next (s.setUart i { s.uart i with sr := sr })) ∧
  ∀ (s : State) (m : Move) (i : Unit6), m.lineUnit = some i →
    (s.uart i).cfgv = false ∨ (s.uart i).cfg.mode = .disabled → agentStep m s = .refused (.notEnabled m)

/-- R205: what a step of the line agent of a unit never writes: the transmit data register, the configuration, the
handler table, the signals, the mask, the dispatcher, FRAME and every other unit; memory and the receive channel only
in the receive event; and it never clears cts, brk, idle, pe or txc. -/
def Obligations.LineAgentWritesOnlyItsOwn : Prop :=
  ∀ (s t : State) (m : Move) (i : Unit6), m.lineUnit = some i → agentStep m s = .next t →
    (t.uart i).tdr = (s.uart i).tdr ∧ (t.uart i).cfg = (s.uart i).cfg ∧
    (t.uart i).hslot = (s.uart i).hslot ∧ (t.uart i).sig = (s.uart i).sig ∧
    (t.uart i).masked = (s.uart i).masked ∧ (t.uart i).dsp = (s.uart i).dsp ∧ t.frame = s.frame ∧
    (∀ j, j ≠ i → t.uart j = s.uart j) ∧ (t.uart i).ch.tx = (s.uart i).ch.tx ∧
    ((∀ b, m ≠ .rxByte i b) → t.mem = s.mem ∧ (t.uart i).ch = (s.uart i).ch) ∧
    ∀ k, k = .cts ∨ k = .brk ∨ k = .idle ∨ k = .pe ∨ k = .txc →
      flag (s.uart i).sr k = true → flag (t.uart i).sr k = true

/-- R133, R197, R258: where an active receive stream, not stuck by a BusFault (R61), leaves no byte in the data
register, no move of any agent makes one stay there, so while a stream runs a program never sees rxr set. -/
def Obligations.ActiveStreamLeavesNoByteWaiting : Prop :=
  ∀ (s t : State) (m : Move),
    (∀ i, (s.uart i).dmaRx = true → (s.uart i).ch.rx.active = true → (s.uart i).chFault.rx = none →
      flag (s.uart i).sr .rxr = false) →
    agentStep m s = .next t →
    ∀ i, (t.uart i).dmaRx = true → (t.uart i).ch.rx.active = true → (t.uart i).chFault.rx = none →
      flag (t.uart i).sr .rxr = false

/-! ### Interrupt dispatch -/

/-- R212, R213: the interrupt request of a unit is asserted exactly when it is bound, not masked, and some flag is set
whose enable bit, 6 for cts, 5 brk, 1 txe, 2 txc, 3 rxr, 4 idle, 0 pe, is set. Trap entry: an Idle dispatcher whose
request is asserted reads the status register once into its snapshot and starts the scan at kind 0; nothing else is
saved or changed; without a request, and in a handler, it has no step. -/
def Obligations.DispatchEnterTakesTheSnapshot : Prop :=
  (∀ u : Uart, u.irq = true ↔ u.cfgv = true ∧ u.masked = false ∧
    (flag u.sr .cts = true ∧ u.cfg.ie.getLsbD 6 = true ∨ flag u.sr .brk = true ∧ u.cfg.ie.getLsbD 5 = true ∨
      flag u.sr .txe = true ∧ u.cfg.ie.getLsbD 1 = true ∨ flag u.sr .txc = true ∧ u.cfg.ie.getLsbD 2 = true ∨
      flag u.sr .rxr = true ∧ u.cfg.ie.getLsbD 3 = true ∨ flag u.sr .idle = true ∧ u.cfg.ie.getLsbD 4 = true ∨
      flag u.sr .pe = true ∧ u.cfg.ie.getLsbD 0 = true)) ∧
  ∀ (s : State) (i : Unit6),
    ((s.uart i).dsp.phase = .idle → (s.uart i).irq = true →
      agentStep (.dispatcher i) s = .next (s.setUart i { s.uart i with
        dsp := ⟨.scan .cts, (s.uart i).sr, (s.uart i).dsp.flen⟩ })) ∧
    ((s.uart i).dsp.phase = .idle ∧ (s.uart i).irq = false ∨ (∃ k, (s.uart i).dsp.phase = .inHandler k) →
      agentStep (.dispatcher i) s = .refused (.notEnabled (.dispatcher i)))

/-- R214 to R219: the scan step of kind k. A kind not in the snapshot is passed over; one in the snapshot, enabled or
not, is serviced by its slot: NONE clears the live flag (txe excepted) and goes on, FRAME starts the framing handler,
EXT(h) emits the handler call and waits. The next phase is the scan of the next kind, Idle after the last. -/
def Obligations.ScanServicesTheSnapshotInOrder : Prop :=
  ∀ (s : State) (i : Unit6) (k : EventKind) (h : Word) (next : DspPhase), (s.uart i).dsp.phase = .scan k →
    (k, next) ∈ [(EventKind.cts, DspPhase.scan .brk), (.brk, .scan .txe), (.txe, .scan .txc),
      (.txc, .scan .rxr), (.rxr, .scan .idle), (.idle, .scan .pe), (.pe, .idle)] →
    (flag (s.uart i).dsp.snap k = false →
      agentStep (.dispatcher i) s = .next (s.setUart i { s.uart i with
        dsp := { (s.uart i).dsp with phase := next } })) ∧
    (flag (s.uart i).dsp.snap k = true → (s.uart i).hslot.get k = .empty → ∃ sr : BitVec 7,
      (∀ j, flag sr j = (flag (s.uart i).sr j && decide (j ≠ k ∨ k = .txe))) ∧
      agentStep (.dispatcher i) s = .next (s.setUart i { s.uart i with
        sr := sr, dsp := { (s.uart i).dsp with phase := next } })) ∧
    (flag (s.uart i).dsp.snap k = true → (s.uart i).hslot.get k = .frame →
      agentStep (.dispatcher i) s = .next (s.setUart i { s.uart i with
        dsp := { (s.uart i).dsp with phase := .frame .f0 } })) ∧
    (flag (s.uart i).dsp.snap k = true → (s.uart i).hslot.get k = .ext h →
      agentStep (.dispatcher i) s = .next ((s.setUart i { s.uart i with
        dsp := { (s.uart i).dsp with phase := .inHandler k } }).emit (.handlerCall i k h)))

/-- R224: HRET, whose word is 0x2F ++ i ++ 0x0 ++ 0x0000, of a unit whose dispatcher is in handler k clears the flag
of k (txe excepted), goes on to the next kind or to Idle, and returns 0; everywhere else the host may issue it, and
for a field that names no unit, it returns -1 and changes nothing. -/
def Obligations.HretEndsTheHandler : Prop :=
  ∀ s : State, s.hostContext →
    (∀ n : BitVec 4, decode (0x2F#8 ++ n ++ 0#4 ++ 0#16) = .legal (.hret n)) ∧
    (∀ i k next, (s.uart i).dsp.phase = .inHandler k →
      (k, next) ∈ [(EventKind.cts, DspPhase.scan .brk), (.brk, .scan .txe), (.txe, .scan .txc),
        (.txc, .scan .rxr), (.rxr, .scan .idle), (.idle, .scan .pe), (.pe, .idle)] → ∃ sr : BitVec 7,
      (∀ j, flag sr j = (flag (s.uart i).sr j && decide (j ≠ k ∨ k = .txe))) ∧
      exec (.hret (unitNumber i)) s = .next ((s.setUart i { s.uart i with
        sr := sr, dsp := { (s.uart i).dsp with phase := next } }).ret .hret 0#32)) ∧
    (∀ i, (∀ k, (s.uart i).dsp.phase ≠ .inHandler k) →
      exec (.hret (unitNumber i)) s = .next (s.ret .hret 0xFFFFFFFF#32)) ∧
    ∀ n, namesNoUnit n → exec (.hret n) s = .next (s.ret .hret 0xFFFFFFFF#32)

/-- R213 to R221, R204: a whole dispatch of a unit whose serviced kinds have no framing handler, every external
handler returning at once and no event arriving meanwhile, calls the registered handlers of the flags set at entry in
the fixed order, clears every such flag but txe whether or not a handler is registered or the kind enabled, and
returns to Idle; the unit keeps everything else, and so do the other units, memory, FRAME and the foreground. The
interrupt context that ends the handlers is not stuck by a BusFault (R61, R238; log entry 11). -/
def Obligations.DispatchServicesEveryFlagInOrder : Prop :=
  ∀ (s : State) (i : Unit6), s.handlerFault = none → (s.uart i).dsp.phase = .idle → (s.uart i).irq = true →
    (∀ k, flag (s.uart i).sr k = true → (s.uart i).hslot.get k ≠ .frame) →
    ∃ (t : State) (sr : BitVec 7), runMoves (dispatchMoves i (s.uart i)) s = .next t ∧
      (∀ k, flag sr k = (flag (s.uart i).sr k && decide (k = .txe))) ∧
      t.uart i = { s.uart i with sr := sr, dsp := ⟨.idle, (s.uart i).sr, (s.uart i).dsp.flen⟩ } ∧
      t.trace = s.trace ++ allKinds.flatMap (kindEvents i (s.uart i) s.r) ∧
      (∀ j, j ≠ i → t.uart j = s.uart j) ∧ t.mem = s.mem ∧ t.frame = s.frame ∧ t.fg = s.fg ∧ t.a = s.a ∧
      t.par = s.par

/-- R213, R221: a dispatcher in service keeps its snapshot and takes no second entry, whatever any agent does: the
snapshot changes only in the entry step, from Idle. -/
def Obligations.SnapshotIsTakenOnlyFromIdle : Prop :=
  ∀ (s t : State) (m : Move) (i : Unit6), agentStep m s = .next t → (t.uart i).dsp.snap ≠ (s.uart i).dsp.snap →
    m = .dispatcher i ∧ (s.uart i).dsp.phase = .idle ∧ (s.uart i).irq = true ∧
    (t.uart i).dsp.snap = (s.uart i).sr ∧ (t.uart i).dsp.phase = .scan .cts

/-! ### Idle-line framing -/

/-- R171: FINIT, the word 0x08000000. Of an unbound framing unit with a solvable, supported baud rate and a free
receive channel it binds the unit with the fixed options, registers the framing handler in the idle-line slot alone,
clears the receive signal, sets FRAME to {1, Armed, 0}, arms and triggers the circular receive over the window and
returns 0; nothing else changes. On every ConfigurationError of INIT it puts -1 in R[0] and changes nothing else but
the trace. A bound unit is refused. -/
def Obligations.FinitStartsTheCircularReceive : Prop :=
  decode 0x08000000#32 = .legal .finit ∧
  ∀ (s : State) (i : Unit6) (cfg : UartConfig), s.foregroundFree → i = s.par.frameUnit →
    cfg = ⟨s.a.q0, .halfDuplex, .none, .one, 0x10#8, 3#2⟩ →
    ((s.uart i).cfgv = true → exec .finit s = .refused (.rebind i)) ∧
    ((s.uart i).cfgv = false →
      s.a.q0 = 0#32 ∨ cfg ∈ s.par.unsupported ∨ solveBaud (s.par.pclk.get i).toNat s.a.q0.toNat = none →
      exec .finit s = .next (s.ret .finit 0xFFFFFFFF#32)) ∧
    ∀ (brr : Half) (x : Solution), (s.uart i).cfgv = false → cfg ∉ s.par.unsupported →
      solveBaud (s.par.pclk.get i).toNat s.a.q0.toNat = some x → brr.toNat = 16 * x.coarse + x.fine →
      (s.uart i).ch.rx.active = false → (s.uart i).ch.rx.done = false →
      exec .finit s = .next (({ s.setUart i { s.uart i with
          cfgv := true
          cfg := cfg
          brr := brr
          sr := 0b0001100#7
          rxact := false
          hslot := { (s.uart i).hslot with idle := .frame }
          sig := ⟨false, (s.uart i).sig.tx⟩
          ch := ⟨⟨.periphToMem, 0#2, .dr i, .mem s.par.winBase, s.par.frameCap, true, s.par.prioRx,
            s.par.frameCap, 0#16, true, false⟩, (s.uart i).ch.tx⟩ } with
        frame := ⟨true, .armed, 0#16⟩ }.emit (.trigger i .rx)).ret .finit 0#32)

/-- R177 to R182: the six steps of the framing handler: mask, stop the stream, compute min((C - cnt) mod 2^16, C),
reload the counter, restart the stream at offset 0 taking a byte that was latched meanwhile (unless the channel is
stuck, R61), and unmask, record the frame, release the signal and finish kind 5; each changes what it names and
nothing else. The model's own readings: that F4 goes on over a stuck channel (log entry 8), and that the steps act on
the unit whose dispatcher runs them, which is FRAME_INST in every run (log entry 15). -/
def Obligations.FramingHandlerTakesSixSteps : Prop :=
  ∀ (s : State) (i : Unit6) (base : Word),
    ((s.uart i).dsp.phase = .frame .f0 → agentStep (.dispatcher i) s = .next (s.setUart i { s.uart i with
      masked := true, dsp := { (s.uart i).dsp with phase := .frame .f1 } })) ∧
    ((s.uart i).dsp.phase = .frame .f1 → agentStep (.dispatcher i) s = .next (s.setUart i { s.uart i with
      ch := ⟨{ (s.uart i).ch.rx with active := false }, (s.uart i).ch.tx⟩
      dsp := { (s.uart i).dsp with phase := .frame .f2 } })) ∧
    ((s.uart i).dsp.phase = .frame .f2 → ∃ flen : Half,
      flen.toNat =
        min ((s.par.frameCap.toNat + 2 ^ 16 - (s.uart i).ch.rx.cnt.toNat) % 2 ^ 16) s.par.frameCap.toNat ∧
      agentStep (.dispatcher i) s = .next (s.setUart i { s.uart i with
        dsp := ⟨.frame .f3, (s.uart i).dsp.snap, flen⟩ })) ∧
    ((s.uart i).dsp.phase = .frame .f3 → agentStep (.dispatcher i) s = .next (s.setUart i { s.uart i with
      ch := ⟨{ (s.uart i).ch.rx with cnt := s.par.frameCap }, (s.uart i).ch.tx⟩
      dsp := { (s.uart i).dsp with phase := .frame .f4 } })) ∧
    ((s.uart i).dsp.phase = .frame .f4 →
      flag (s.uart i).sr .rxr = false ∨ (s.uart i).dmaRx = false ∨ (s.uart i).chFault.rx ≠ none →
      agentStep (.dispatcher i) s = .next (s.setUart i { s.uart i with
        ch := ⟨{ (s.uart i).ch.rx with off := 0#16, active := true }, (s.uart i).ch.tx⟩
        dsp := { (s.uart i).dsp with phase := .frame .f5 } })) ∧
    ((s.uart i).dsp.phase = .frame .f4 → flag (s.uart i).sr .rxr = true → (s.uart i).dmaRx = true →
      (s.uart i).chFault.rx = none → (s.uart i).ch.rx.dst = .mem base → (s.uart i).ch.rx.circ = true →
      memValid s.par (byteAddr base 0#16) = true → ∃ sr : BitVec 7,
      (∀ k, flag sr k = (!decide (k = .rxr) && flag (s.uart i).sr k)) ∧
      agentStep (.dispatcher i) s = .next
        { s.setUart i { s.uart i with
            sr := sr
            ch := ⟨{ (s.uart i).ch.rx with
              cnt := (s.uart i).ch.rx.cnt - 1#16
              off := BitVec.ofNat 16 (1 % (s.uart i).ch.rx.len.toNat)
              active := true }, (s.uart i).ch.tx⟩
            dsp := { (s.uart i).dsp with phase := .frame .f5 } } with
          mem := s.mem.write (byteAddr base 0#16).toNat (s.uart i).rdr }) ∧
    ((s.uart i).dsp.phase = .frame .f5 → ∃ sr : BitVec 7,
      (∀ k, flag sr k = (!decide (k = .idle) && flag (s.uart i).sr k)) ∧
      agentStep (.dispatcher i) s = .next
        { s.setUart i { s.uart i with
            sr := sr
            masked := false
            sig := ⟨true, (s.uart i).sig.tx⟩
            dsp := { (s.uart i).dsp with phase := .scan .pe } } with
          frame := { s.frame with state := .frameCaptured, len := (s.uart i).dsp.flen } })

/-- R185, R191: from the protocol's start state let the line deliver N bytes, 1 to 65535, then the idle event, and the
dispatch run, other registered handlers returning at once and no further byte arriving. Then the captured length is
min(N, C), a frame is recorded and signalled, the window is rearmed to capacity C at offset 0 with its stream running
and the protocol is ready again, and window offset j holds the last-arrived byte whose index is congruent to j modulo
C, which for N up to C is byte j; no other byte of memory changes. In the start state neither the stream nor the
interrupt context is stuck by a BusFault (R61, R238; log entry 11). -/
def Obligations.CapturedLengthIsTheClampedCount : Prop :=
  ∀ (s : State) (bs : List Byte), s.FramingReady → s.par.wf = true → s.mem.wf → s.WindowValid →
    1 ≤ bs.length → bs.length ≤ 65535 →
    ∃ s1 t : State,
      runMoves (delivered s.par.frameUnit bs ++ [.idleEvent s.par.frameUnit]) s = .next s1 ∧
      runMoves (dispatchMoves s.par.frameUnit (s1.uart s.par.frameUnit)) s1 = .next t ∧
      t.frame.state = .frameCaptured ∧ t.frame.len.toNat = min bs.length s.par.frameCap.toNat ∧
      (t.uart s.par.frameUnit).sig.rx = true ∧ t.FramingReady ∧ t.par = s.par ∧ t.mem.wf ∧
      (∀ j, j < min bs.length s.par.frameCap.toNat →
        bs[j + s.par.frameCap.toNat * ((bs.length - 1 - j) / s.par.frameCap.toNat)]? =
          some (t.mem.read (byteAddr s.par.winBase (BitVec.ofNat 16 j)).toNat)) ∧
      (bs.length ≤ s.par.frameCap.toNat → holdsBytes t.mem s.par.winBase bs) ∧
      sameOutside s.mem t.mem s.par.winBase (min bs.length s.par.frameCap.toNat) ∧
      (∀ j, j ≠ s.par.frameUnit → t.uart j = s.uart j) ∧ t.fg = s.fg

/-- R188, R189: two bursts, each ended by an idle event and its dispatch, report lengths that count only the bytes
since the prior rearm; the second frame lies at the start of the window and, the first being unread, replaces it: one
signal remains set. In the start state neither the stream nor the interrupt context is stuck by a BusFault (R61, R238;
log entry 11). -/
def Obligations.FrameLengthsAreNotCumulative : Prop :=
  ∀ (s : State) (bs cs : List Byte), s.FramingReady → s.par.wf = true → s.mem.wf → s.WindowValid →
    1 ≤ bs.length → bs.length ≤ s.par.frameCap.toNat → 1 ≤ cs.length → cs.length ≤ s.par.frameCap.toNat →
    ∃ s1 t1 s2 t2 : State,
      runMoves (delivered s.par.frameUnit bs ++ [.idleEvent s.par.frameUnit]) s = .next s1 ∧
      runMoves (dispatchMoves s.par.frameUnit (s1.uart s.par.frameUnit)) s1 = .next t1 ∧
      t1.frame.len.toNat = bs.length ∧
      runMoves (delivered s.par.frameUnit cs ++ [.idleEvent s.par.frameUnit]) t1 = .next s2 ∧
      runMoves (dispatchMoves s.par.frameUnit (s2.uart s.par.frameUnit)) s2 = .next t2 ∧
      t2.frame.len.toNat = cs.length ∧ t2.frame.state = .frameCaptured ∧
      (t2.uart s.par.frameUnit).sig.rx = true ∧ holdsBytes t2.mem s.par.winBase cs

/-- R173, R233: FRECV with a frame of n bytes captured, n at least 2, and its signal set copies exactly n bytes of the
window, in ascending order, to a buffer apart from the window, returns n, clears the signal and returns to Armed; no
other byte of memory changes, and nothing else does. A captured length of 0 or 1 is a ShortFrame: FRECV returns -1 in
its step W2, delivers no byte, leaves the signal cleared and returns to Armed. -/
def Obligations.FrecvDeliversTheFrame : Prop :=
  (∀ s : State, s.foregroundFree → s.mem.wf → s.frame.init = true → (s.uart s.par.frameUnit).sig.rx = true →
    2 ≤ s.frame.len.toNat → bufferValid s.par s.par.winBase s.frame.len →
    bufferValid s.par s.a.q0 s.frame.len →
    (∀ j k : Half, j.toNat < s.frame.len.toNat → k.toNat < s.frame.len.toNat →
      byteAddr s.par.winBase j ≠ byteAddr s.a.q0 k) →
    ∃ t : State, presentThen .frecv
        (repeated (s.frame.len.toNat + 3) [.foreground]) s = .next t ∧
      t.r = { s.r with q0 := s.frame.len.setWidth 32 } ∧ t.fg.op = none ∧
      t.trace = s.trace ++ [.ret .frecv t.r] ∧
      holdsBytes t.mem s.a.q0 (bufferBytes s.mem s.par.winBase s.frame.len) ∧
      sameOutside s.mem t.mem s.a.q0 s.frame.len.toNat ∧
      t.frame = { s.frame with state := .armed } ∧ t.a = s.a ∧
      t.uarts = s.uarts.set s.par.frameUnit { s.uart s.par.frameUnit with
        sig := ⟨false, (s.uart s.par.frameUnit).sig.tx⟩ }) ∧
  ∀ s : State, s.foregroundFree → s.frame.init = true → (s.uart s.par.frameUnit).sig.rx = true →
    s.frame.len.toNat < 2 →
    ∃ t : State, presentThen .frecv
        [.foreground, .foreground] s = .next t ∧
      t.r = { s.r with q0 := 0xFFFFFFFF#32 } ∧ t.fg.op = none ∧ t.trace = s.trace ++ [.ret .frecv t.r] ∧
      t.mem = s.mem ∧ t.frame = { s.frame with state := .armed } ∧ t.a = s.a ∧
      t.uarts = s.uarts.set s.par.frameUnit { s.uart s.par.frameUnit with
        sig := ⟨false, (s.uart s.par.frameUnit).sig.tx⟩ }

/-- R186, R171, R173, R185: from reset to the caller's buffer. After any reset, FINIT with a solvable and supported
baud rate, a burst of 2 to C bytes, the idle event, its dispatch, and FRECV put exactly those bytes in the caller's
buffer and their number in R[0], with the protocol back in Armed; whatever the values reset leaves unspecified. -/
def Obligations.PeerFrameReachesTheCallersBuffer : Prop :=
  ∀ (s : State) (baud buf : Word) (bs : List Byte) (x : Solution), s.AfterReset → s.par.wf = true → s.mem.wf →
    s.WindowValid → solveBaud (s.par.pclk.get s.par.frameUnit).toNat baud.toNat = some x →
    unpackOptions baud framingOptions ∉ s.par.unsupported →
    2 ≤ bs.length → bs.length ≤ s.par.frameCap.toNat →
    bufferValid s.par buf (BitVec.ofNat 16 bs.length) →
    (∀ j k : Half, j.toNat < bs.length → k.toNat < bs.length →
      byteAddr s.par.winBase j ≠ byteAddr buf k) →
    ∃ t : State,
      runMoves ([.hostOperand 0 baud, .hostCommand (encode .finit)] ++ delivered s.par.frameUnit bs ++
        [.idleEvent s.par.frameUnit] ++ List.replicate 14 (.dispatcher s.par.frameUnit) ++
        [.hostOperand 0 buf, .hostCommand (encode .frecv)] ++
        List.replicate (bs.length + 3) .foreground) s = .next t ∧
      t.r.q0.toNat = bs.length ∧ holdsBytes t.mem buf bs ∧ t.fg.op = none ∧ t.frame.state = .armed ∧
      (t.uart s.par.frameUnit).sig.rx = false

/-! ### The whole machine -/

/-- R54: isolation. A step of a dispatcher, channel or line agent of a unit writes only that unit, memory, and, for
the framing unit, FRAME (and the trace), and reads only these and the parameters: in two states that agree on them it
does the same. -/
def Obligations.UnitAgentsAreIsolated : Prop :=
  ∀ (s s' t : State) (m : Move) (i : Unit6), s.Inv → m.unit = some i → agentStep m s = .next t →
    ((∀ j, j ≠ i → t.uart j = s.uart j) ∧ (i ≠ s.par.frameUnit → t.frame = s.frame) ∧
      t.par = s.par ∧ t.cmd = s.cmd ∧ t.a = s.a ∧ t.r = s.r ∧ t.fg = s.fg ∧ t.sched = s.sched ∧
      t.fgFault = s.fgFault ∧ t.handlerFault = s.handlerFault) ∧
    (s'.par = s.par → s'.mem = s.mem → s'.uart i = s.uart i → (i = s.par.frameUnit → s'.frame = s.frame) →
      ∃ (t' : State) (evs : List Ev), agentStep m s' = .next t' ∧ t'.uart i = t.uart i ∧ t'.mem = t.mem ∧
        (i = s.par.frameUnit → t'.frame = t.frame) ∧ t.trace = s.trace ++ evs ∧ t'.trace = s'.trace ++ evs)

/-- R28, R226: only INIT of a unit, and FINIT of the framing unit, binds it, and no move of any agent unbinds a bound
unit or changes its configuration or its divisor. -/
def Obligations.BoundConfigurationNeverChanges : Prop :=
  ∀ (s t : State) (m : Move) (i : Unit6), agentStep m s = .next t →
    ((s.uart i).cfgv = true →
      (t.uart i).cfgv = true ∧ (t.uart i).cfg = (s.uart i).cfg ∧ (t.uart i).brr = (s.uart i).brr) ∧
    ((s.uart i).cfgv = false → (t.uart i).cfgv = true → ∃ w, m = .hostCommand w ∧
      ((∃ n, decode w = .legal (.init n) ∧ unitOf n = some i) ∨
        (decode w = .legal .finit ∧ i = s.par.frameUnit)))

/-- R44, R55, R171: who writes a CompletionSignal. It becomes set only by the completion callback of its channel or,
the framing unit's receive signal, by the framing handler's last step; it becomes clear only by SEND or FSEND
(transmit), RECV or FRECV (receive) of its unit, and by FINIT. -/
def Obligations.SignalsAreWrittenByTheirOwners : Prop :=
  ∀ (s t : State) (m : Move) (i : Unit6) (d : Dir), s.Inv → agentStep m s = .next t →
    ((s.uart i).sig.get d = false → (t.uart i).sig.get d = true →
      m = .dmaDone i d ∨
      (d = .rx ∧ i = s.par.frameUnit ∧ m = .dispatcher i ∧ (s.uart i).dsp.phase = .frame .f5)) ∧
    ((s.uart i).sig.get d = true → (t.uart i).sig.get d = false →
      (m = .foreground ∧ d = .tx ∧ ((∃ len buf, s.fg.op = some (.send i len buf)) ∨
        (i = s.par.frameUnit ∧ ∃ len buf, s.fg.op = some (.fsend len buf)))) ∨
      (m = .foreground ∧ d = .rx ∧ ((∃ circ len buf, s.fg.op = some (.recv i circ len buf)) ∨
        (i = s.par.frameUnit ∧ ∃ buf, s.fg.op = some (.frecv buf)))) ∨
      (d = .rx ∧ i = s.par.frameUnit ∧ ∃ w, m = .hostCommand w ∧ decode w = .legal .finit))

/-- R43, R45, R176, R177, R182: the mask bit of a unit is written only by its framing handler's first and last step,
and the handler table only by SETH and FINIT, FRAME being stored by FINIT in the framing unit's idle-line slot alone.
-/
def Obligations.MaskAndHandlerTableHaveOneWriter : Prop :=
  ∀ (s t : State) (m : Move) (i : Unit6), agentStep m s = .next t →
    ((t.uart i).masked ≠ (s.uart i).masked →
      m = .dispatcher i ∧ ((s.uart i).dsp.phase = .frame .f0 ∨ (s.uart i).dsp.phase = .frame .f5)) ∧
    ∀ k, (t.uart i).hslot.get k ≠ (s.uart i).hslot.get k → ∃ w, m = .hostCommand w ∧
      ((∃ n sub, decode w = .legal (.seth n sub) ∧ unitOf n = some i ∧ kindOf sub = some k ∧
          (t.uart i).hslot.get k ≠ .frame) ∨
        (decode w = .legal .finit ∧ i = s.par.frameUnit ∧ k = .idle ∧ (t.uart i).hslot.get k = .frame))

/-- R55, R62, R133, R173: every move stores at most one byte of memory, at the address the rule of the move gives
(`Move.storeAddress`); every other address reads as before. -/
def Obligations.StoresGoOnlyWhereTheRuleSays : Prop :=
  ∀ (s t : State) (m : Move), s.mem.wf → agentStep m s = .next t →
    ∀ a : Word, m.storeAddress s ≠ some a → t.mem.read a.toNat = s.mem.read a.toNat

/-- R61, R62, R70: a byte read after a store is the byte stored at that address and the old byte at every other; a
read or a store where MEM_VALID is false is a BusFault of that address. -/
def Obligations.MemoryHoldsTheLatestStoreOrFaults : Prop :=
  ∀ (p : Params) (m : Memory) (a b : Word) (v : Byte), m.wf →
    (memValid p a = true → ∃ m', memWrite p m a v = .ok m' ∧ m'.wf ∧ memRead p m' a = .ok v ∧
      (b ≠ a → memRead p m' b = memRead p m b)) ∧
    (memValid p a = false → memWrite p m a v = .error ⟨a⟩ ∧ memRead p m a = .error ⟨a⟩)

/-- R61, R62, R238, R131, R133, R181: where a move needs a byte at an address with MEM_VALID false, the BusFault of
that address is recorded of the foreground operation or the channel that asked for the byte, and of that access
nothing else changes: SEND's and FSEND's label P1, RECV's label P2, FRECV's label C1 for its source and for its
destination, TxMove, and the receive service inside RxByte, inside RECV's trigger in label D1 with a byte waiting, and
inside the framing handler's restart F4 with a byte latched. That the step which holds a receive service keeps its
other effects, and that the channel is its asker, is log entry 8; that F4 acts on the unit of its dispatcher is log
entry 15; that a host store does the same to the host's context is log entry 11. -/
def Obligations.BusFaultsAreRecordedOfTheirAgent : Prop :=
  ∀ (s : State) (i : Unit6) (circ : Bool) (len : Half) (buf a : Word) (b : Byte), memValid s.par a = false →
    (s.foregroundMayAct = true →
      (a = byteAddr buf s.fg.k ∧
          ((s.fg.op = some (.send i len buf) ∨ s.fg.op = some (.fsend len buf)) ∧ s.fg.phase = .p1 ∨
            s.fg.op = some (.recv i circ len buf) ∧ s.fg.phase = .p2 ∨
            s.fg.op = some (.frecv buf) ∧ s.fg.phase = .c1 ∧
              memValid s.par (byteAddr s.par.winBase s.fg.k) = true)) ∨
        (a = byteAddr s.par.winBase s.fg.k ∧ s.fg.op = some (.frecv buf) ∧ s.fg.phase = .c1) →
      agentStep .foreground s = .next { s with fgFault := some ⟨a⟩ }) ∧
    ((s.uart i).txMoveEnabled = true → (s.uart i).ch.tx.src = .mem buf → a = byteAddr buf (s.uart i).ch.tx.off →
      agentStep (.txMove i) s = .next (s.setUart i { s.uart i with
        chFault := ⟨(s.uart i).chFault.rx, some ⟨a⟩⟩ })) ∧
    ((s.uart i).dmaRx = true → (s.uart i).chFault.rx = none →
      ((s.uart i).usable = true → (s.uart i).ch.rx.active = true → flag (s.uart i).sr .rxr = false →
        (s.uart i).ch.rx.dst = .mem buf → a = byteAddr buf (s.uart i).ch.rx.off → ∃ sr : BitVec 7,
        (∀ k, flag sr k = (decide (k = .rxr) || flag (s.uart i).sr k)) ∧
        agentStep (.rxByte i b) s = .next (s.setUart i { s.uart i with
          rxact := true, rdr := b, sr := sr, chFault := ⟨some ⟨a⟩, (s.uart i).chFault.tx⟩ })) ∧
      (s.foregroundMayAct = true → s.fg.op = some (.recv i circ len buf) → s.fg.phase = .d1 →
        (s.uart i).ch.rx.active = false → (s.uart i).ch.rx.done = false → flag (s.uart i).sr .rxr = true →
        a = byteAddr buf 0#16 →
        ∃ s' : State, s' = (s.setUart i { s.uart i with
            ch := ⟨⟨.periphToMem, 0#2, .dr i, .mem buf, len, circ, s.par.prioRx, len, 0#16, true, false⟩,
              (s.uart i).ch.tx⟩
            chFault := ⟨some ⟨a⟩, (s.uart i).chFault.tx⟩ }).emit (.trigger i .rx) ∧
          agentStep .foreground s = .next (if circ = true then
            { s' with fg := { s'.fg with op := none } }.ret .recv 0#32
            else { s' with fg := { s'.fg with phase := .d2 } })) ∧
      ((s.uart i).dsp.phase = .frame .f4 → flag (s.uart i).sr .rxr = true → (s.uart i).ch.rx.dst = .mem buf →
        a = byteAddr buf 0#16 →
        agentStep (.dispatcher i) s = .next (s.setUart i { s.uart i with
          ch := ⟨{ (s.uart i).ch.rx with off := 0#16, active := true }, (s.uart i).ch.tx⟩
          chFault := ⟨some ⟨a⟩, (s.uart i).chFault.tx⟩
          dsp := { (s.uart i).dsp with phase := .frame .f5 } }))) ∧
    (s.foregroundMayAct = true → agentStep (.hostStore a b) s = .next { s with fgFault := some ⟨a⟩ }) ∧
    (s.handlerMayAct = true → agentStep (.hostStore a b) s = .next { s with handlerFault := some ⟨a⟩ })

/-- R61, R238: an agent with a BusFault recorded takes no step from then on, and only such an agent: a stuck
foreground context takes no foreground step, and while it is the host's context the host presents nothing and writes
nothing; a stuck interrupt context neither (the host's contexts: log entry 11); a stuck channel takes no TxMove and no
DmaDone and moves no byte in a receive service (log entry 8). A record is never removed, and its address has MEM_VALID
false; a record of the foreground is made only by a foreground move or a host store, one of the interrupt context only
by a host store, one of a channel only by TxMove (transmit), or by RxByte, a dispatcher or a foreground move
(receive). The host's records change no step of a unit's agent: it answers the same next state, the records aside. -/
def Obligations.OnlyTheFaultedAgentIsStuck : Prop :=
  (∀ (s : State) (i : Instr) (n : Fin 4) (v w : Word) (b : Byte) (m : Move),
    m ∈ [Move.hostOperand n v, .hostStore v b, .hostCommand w] →
    s.fgFault ≠ none ∧ s.allIdle = true ∨ s.handlerFault ≠ none ∧ s.allIdle = false →
    agentStep .foreground s = .refused (.notEnabled .foreground) ∧
    (∀ t, exec i s ≠ .next t) ∧ ∀ t, agentStep m s ≠ .next t) ∧
  (∀ (s t : State) (j : Unit6) (d : Dir), (s.uart j).chFault.get d ≠ none →
    agentStep (.dmaDone j d) s = .refused (.notEnabled (.dmaDone j d)) ∧
    (d = .tx → agentStep (.txMove j) s = .refused (.notEnabled (.txMove j))) ∧
    (d = .rx → ∀ b, agentStep (.rxByte j b) s = .next t → t.mem = s.mem ∧ (t.uart j).ch = (s.uart j).ch) ∧
    (d = .rx → agentStep (.dispatcher j) s = .next t →
      t.mem = s.mem ∧ ((t.uart j).ch.rx.cnt = (s.uart j).ch.rx.cnt ∨ (s.uart j).dsp.phase = .frame .f3))) ∧
  (∀ (s t : State) (m : Move), agentStep m s = .next t →
    (t.fgFault ≠ s.fgFault → s.fgFault = none ∧ (∃ f, t.fgFault = some f ∧ memValid s.par f.addr = false) ∧
      (m = .foreground ∨ ∃ a b, m = .hostStore a b)) ∧
    (t.handlerFault ≠ s.handlerFault → s.handlerFault = none ∧
      (∃ f, t.handlerFault = some f ∧ memValid s.par f.addr = false) ∧ ∃ a b, m = .hostStore a b) ∧
    ∀ j d, (t.uart j).chFault.get d ≠ (s.uart j).chFault.get d → (s.uart j).chFault.get d = none ∧
      (∃ f, (t.uart j).chFault.get d = some f ∧ memValid s.par f.addr = false) ∧
      (d = .tx ∧ m = .txMove j ∨ d = .rx ∧ (m = .foreground ∨ m = .dispatcher j ∨ ∃ b, m = .rxByte j b))) ∧
  ∀ (s t : State) (m : Move) (j : Unit6) (f g : Option BusFault), m.unit = some j → agentStep m s = .next t →
    agentStep m { s with fgFault := f, handlerFault := g } = .next { t with fgFault := f, handlerFault := g }

/-- R26, R27, R52, R62, R70: the host's own writes, where it has a move. A write of A[n] puts the value in A[n] and
changes nothing else, so an operation in progress keeps its latched operands; and what the operation's next step does
depends on no operand register. A store to a valid address puts the byte there and changes no other byte and nothing
else. When the host has these moves is log entry 11. -/
def Obligations.HostWritesItsOperandsAndMemory : Prop :=
  (∀ (s : State) (n : Fin 4) (v : Word), s.hostMayAct = true →
    agentStep (.hostOperand n v) s = .next { s with a :=
      ⟨if n = 0 then v else s.a.q0, if n = 1 then v else s.a.q1, if n = 2 then v else s.a.q2,
        if n = 3 then v else s.a.q3⟩ }) ∧
  (∀ (s t : State) (q : Quad), agentStep .foreground s = .next t →
    t.a = s.a ∧ agentStep .foreground { s with a := q } = .next { t with a := q }) ∧
  ∀ (s : State) (a : Word) (b : Byte), s.hostMayAct = true → s.mem.wf → memValid s.par a = true →
    ∃ m : Memory, agentStep (.hostStore a b) s = .next { s with mem := m } ∧ m.wf ∧ m.read a.toNat = b ∧
      ∀ c : Word, c ≠ a → m.read c.toNat = s.mem.read c.toNat

/-- R53, R57: no step changes a parameter, and the observation trace is append-only. -/
def Obligations.TraceOnlyGrowsAndParametersStay : Prop :=
  ∀ s t : State, step s = .next t → t.par = s.par ∧ ∃ evs, t.trace = s.trace ++ evs

/-- R27, R235, R12, R47, R91: in a state that meets the invariant an operation in progress, its context not stuck and
every dispatcher Idle, always has its next foreground step, unless that step arms a channel in use; a dispatcher in a
scan or in the framing handler always has its step; and no step faults, so none runs into a descriptor the block never
writes. -/
def Obligations.StepsAreAvailableAndNoneFaults : Prop :=
  ∀ s : State, s.Inv →
    (s.foregroundMayAct = true → s.fg.op ≠ none →
      (∃ t, agentStep .foreground s = .next t) ∨
      (∃ i d, agentStep .foreground s = .refused (.overlap i d) ∧ s.fg.phase = .d1)) ∧
    (∀ i, (∃ k, (s.uart i).dsp.phase = .scan k) ∨ (∃ f, (s.uart i).dsp.phase = .frame f) →
      ∃ t, agentStep (.dispatcher i) s = .next t) ∧
    ∀ f, step s ≠ .fault f

/-- The invariant of the machine (R28 to R30, R43, R45 to R49, R121 to R137, R171 to R182 as Safety.lean spells it
out: memory in canonical form, a bound unit's legal configuration and divisor, the slots, masks and dispatcher phases,
the channels' counters, the framing unit's descriptor, the foreground's labels and the recorded faults' addresses,
R61) is kept by every step. -/
def Obligations.StepKeepsTheInvariant : Prop :=
  ∀ s t : State, s.Inv → step s = .next t → t.Inv

/-- The invariant holds in every state reset can leave, whatever the values R56 leaves unspecified, and so in
State.reset, whose own choices of those values are log entry 1's. -/
def Obligations.ResetMeetsTheInvariant : Prop :=
  (∀ s : State, s.AfterReset → s.par.wf = true → s.mem.wf → s.Inv) ∧ State.reset.Inv

/-- R56, R245, R246: State.reset has the values R56's table gives; and in every state with those values no interrupt
request is asserted, the machine is quiescent, the host is in the foreground with no operation in progress, and only
the host can move. -/
def Obligations.AfterResetOnlyTheHostCanMove : Prop :=
  (∀ p, (State.resetWith p).AfterReset) ∧
  ∀ s : State, s.AfterReset →
    s.foregroundFree ∧ (∀ i, (s.uart i).irq = false) ∧ s.Quiescent ∧
    ∀ m t, agentStep m s = .next t → m.isHost = true
end

