-- ==== Sys2Proof/Laws/State.lean ====
section
/-! SUPPORT. One lemma for each field of State under each update of Machine/Ops.lean, so that no proof unfolds a record update. -/

namespace Sys2Proof.Machine

variable (s : State)

@[simp] theorem State.setUart_par (i : Unit6) (u : Uart) : (s.setUart i u).par = s.par := rfl
@[simp] theorem State.setUart_cmd (i : Unit6) (u : Uart) : (s.setUart i u).cmd = s.cmd := rfl
@[simp] theorem State.setUart_a (i : Unit6) (u : Uart) : (s.setUart i u).a = s.a := rfl
@[simp] theorem State.setUart_r (i : Unit6) (u : Uart) : (s.setUart i u).r = s.r := rfl
@[simp] theorem State.setUart_fg (i : Unit6) (u : Uart) : (s.setUart i u).fg = s.fg := rfl
@[simp] theorem State.setUart_uarts (i : Unit6) (u : Uart) : (s.setUart i u).uarts = s.uarts.set i u := rfl
@[simp] theorem State.setUart_frame (i : Unit6) (u : Uart) : (s.setUart i u).frame = s.frame := rfl
@[simp] theorem State.setUart_mem (i : Unit6) (u : Uart) : (s.setUart i u).mem = s.mem := rfl
@[simp] theorem State.setUart_fgFault (i : Unit6) (u : Uart) : (s.setUart i u).fgFault = s.fgFault := rfl
@[simp] theorem State.setUart_handlerFault (i : Unit6) (u : Uart) : (s.setUart i u).handlerFault = s.handlerFault := rfl
@[simp] theorem State.setUart_trace (i : Unit6) (u : Uart) : (s.setUart i u).trace = s.trace := rfl
@[simp] theorem State.setUart_sched (i : Unit6) (u : Uart) : (s.setUart i u).sched = s.sched := rfl

@[simp] theorem State.emit_par (e : Ev) : (s.emit e).par = s.par := rfl
@[simp] theorem State.emit_cmd (e : Ev) : (s.emit e).cmd = s.cmd := rfl
@[simp] theorem State.emit_a (e : Ev) : (s.emit e).a = s.a := rfl
@[simp] theorem State.emit_r (e : Ev) : (s.emit e).r = s.r := rfl
@[simp] theorem State.emit_fg (e : Ev) : (s.emit e).fg = s.fg := rfl
@[simp] theorem State.emit_uarts (e : Ev) : (s.emit e).uarts = s.uarts := rfl
@[simp] theorem State.emit_frame (e : Ev) : (s.emit e).frame = s.frame := rfl
@[simp] theorem State.emit_mem (e : Ev) : (s.emit e).mem = s.mem := rfl
@[simp] theorem State.emit_fgFault (e : Ev) : (s.emit e).fgFault = s.fgFault := rfl
@[simp] theorem State.emit_handlerFault (e : Ev) : (s.emit e).handlerFault = s.handlerFault := rfl
@[simp] theorem State.emit_trace (e : Ev) : (s.emit e).trace = s.trace ++ [e] := rfl
@[simp] theorem State.emit_sched (e : Ev) : (s.emit e).sched = s.sched := rfl
@[simp] theorem State.emit_uart (e : Ev) (j : Unit6) : (s.emit e).uart j = s.uart j := rfl

@[simp] theorem State.retAll_par (op : OpName) (q : Quad) : (s.retAll op q).par = s.par := rfl
@[simp] theorem State.retAll_cmd (op : OpName) (q : Quad) : (s.retAll op q).cmd = s.cmd := rfl
@[simp] theorem State.retAll_a (op : OpName) (q : Quad) : (s.retAll op q).a = s.a := rfl
@[simp] theorem State.retAll_r (op : OpName) (q : Quad) : (s.retAll op q).r = q := rfl
@[simp] theorem State.retAll_fg (op : OpName) (q : Quad) : (s.retAll op q).fg = s.fg := rfl
@[simp] theorem State.retAll_uarts (op : OpName) (q : Quad) : (s.retAll op q).uarts = s.uarts := rfl
@[simp] theorem State.retAll_frame (op : OpName) (q : Quad) : (s.retAll op q).frame = s.frame := rfl
@[simp] theorem State.retAll_mem (op : OpName) (q : Quad) : (s.retAll op q).mem = s.mem := rfl
@[simp] theorem State.retAll_fgFault (op : OpName) (q : Quad) : (s.retAll op q).fgFault = s.fgFault := rfl
@[simp] theorem State.retAll_handlerFault (op : OpName) (q : Quad) : (s.retAll op q).handlerFault = s.handlerFault := rfl
@[simp] theorem State.retAll_trace (op : OpName) (q : Quad) : (s.retAll op q).trace = s.trace ++ [.ret op q] := rfl
@[simp] theorem State.retAll_sched (op : OpName) (q : Quad) : (s.retAll op q).sched = s.sched := rfl
@[simp] theorem State.retAll_uart (op : OpName) (q : Quad) (j : Unit6) : (s.retAll op q).uart j = s.uart j := rfl

@[simp] theorem State.ret_par (op : OpName) (v : Word) : (s.ret op v).par = s.par := rfl
@[simp] theorem State.ret_cmd (op : OpName) (v : Word) : (s.ret op v).cmd = s.cmd := rfl
@[simp] theorem State.ret_a (op : OpName) (v : Word) : (s.ret op v).a = s.a := rfl
@[simp] theorem State.ret_r (op : OpName) (v : Word) : (s.ret op v).r = { s.r with q0 := v } := rfl
@[simp] theorem State.ret_fg (op : OpName) (v : Word) : (s.ret op v).fg = s.fg := rfl
@[simp] theorem State.ret_uarts (op : OpName) (v : Word) : (s.ret op v).uarts = s.uarts := rfl
@[simp] theorem State.ret_frame (op : OpName) (v : Word) : (s.ret op v).frame = s.frame := rfl
@[simp] theorem State.ret_mem (op : OpName) (v : Word) : (s.ret op v).mem = s.mem := rfl
@[simp] theorem State.ret_fgFault (op : OpName) (v : Word) : (s.ret op v).fgFault = s.fgFault := rfl
@[simp] theorem State.ret_handlerFault (op : OpName) (v : Word) : (s.ret op v).handlerFault = s.handlerFault := rfl
@[simp] theorem State.ret_trace (op : OpName) (v : Word) : (s.ret op v).trace = s.trace ++ [.ret op { s.r with q0 := v }] := rfl
@[simp] theorem State.ret_sched (op : OpName) (v : Word) : (s.ret op v).sched = s.sched := rfl
@[simp] theorem State.ret_uart (op : OpName) (v : Word) (j : Unit6) : (s.ret op v).uart j = s.uart j := rfl

@[simp] theorem State.raise_par (op : OpName) : (s.raise op).par = s.par := rfl
@[simp] theorem State.raise_cmd (op : OpName) : (s.raise op).cmd = s.cmd := rfl
@[simp] theorem State.raise_a (op : OpName) : (s.raise op).a = s.a := rfl
@[simp] theorem State.raise_r (op : OpName) : (s.raise op).r = { s.r with q0 := minusOne } := rfl
@[simp] theorem State.raise_fg (op : OpName) : (s.raise op).fg = s.fg := rfl
@[simp] theorem State.raise_uarts (op : OpName) : (s.raise op).uarts = s.uarts := rfl
@[simp] theorem State.raise_frame (op : OpName) : (s.raise op).frame = s.frame := rfl
@[simp] theorem State.raise_mem (op : OpName) : (s.raise op).mem = s.mem := rfl
@[simp] theorem State.raise_fgFault (op : OpName) : (s.raise op).fgFault = s.fgFault := rfl
@[simp] theorem State.raise_handlerFault (op : OpName) : (s.raise op).handlerFault = s.handlerFault := rfl
@[simp] theorem State.raise_trace (op : OpName) : (s.raise op).trace = s.trace ++ [.ret op { s.r with q0 := minusOne }] := rfl
@[simp] theorem State.raise_sched (op : OpName) : (s.raise op).sched = s.sched := rfl
@[simp] theorem State.raise_uart (op : OpName) (j : Unit6) : (s.raise op).uart j = s.uart j := rfl

@[simp] theorem State.endFg_par (op : OpName) (v : Word) : (s.endFg op v).par = s.par := rfl
@[simp] theorem State.endFg_cmd (op : OpName) (v : Word) : (s.endFg op v).cmd = s.cmd := rfl
@[simp] theorem State.endFg_a (op : OpName) (v : Word) : (s.endFg op v).a = s.a := rfl
@[simp] theorem State.endFg_r (op : OpName) (v : Word) : (s.endFg op v).r = { s.r with q0 := v } := rfl
@[simp] theorem State.endFg_fg (op : OpName) (v : Word) : (s.endFg op v).fg = { s.fg with op := none } := rfl
@[simp] theorem State.endFg_uarts (op : OpName) (v : Word) : (s.endFg op v).uarts = s.uarts := rfl
@[simp] theorem State.endFg_frame (op : OpName) (v : Word) : (s.endFg op v).frame = s.frame := rfl
@[simp] theorem State.endFg_mem (op : OpName) (v : Word) : (s.endFg op v).mem = s.mem := rfl
@[simp] theorem State.endFg_fgFault (op : OpName) (v : Word) : (s.endFg op v).fgFault = s.fgFault := rfl
@[simp] theorem State.endFg_handlerFault (op : OpName) (v : Word) : (s.endFg op v).handlerFault = s.handlerFault := rfl
@[simp] theorem State.endFg_trace (op : OpName) (v : Word) : (s.endFg op v).trace = s.trace ++ [.ret op { s.r with q0 := v }] := rfl
@[simp] theorem State.endFg_sched (op : OpName) (v : Word) : (s.endFg op v).sched = s.sched := rfl
@[simp] theorem State.endFg_uart (op : OpName) (v : Word) (j : Unit6) : (s.endFg op v).uart j = s.uart j := rfl

@[simp] theorem State.goto_par (p : FgPhase) : (s.goto p).par = s.par := rfl
@[simp] theorem State.goto_cmd (p : FgPhase) : (s.goto p).cmd = s.cmd := rfl
@[simp] theorem State.goto_a (p : FgPhase) : (s.goto p).a = s.a := rfl
@[simp] theorem State.goto_r (p : FgPhase) : (s.goto p).r = s.r := rfl
@[simp] theorem State.goto_fg (p : FgPhase) : (s.goto p).fg = { s.fg with phase := p } := rfl
@[simp] theorem State.goto_uarts (p : FgPhase) : (s.goto p).uarts = s.uarts := rfl
@[simp] theorem State.goto_frame (p : FgPhase) : (s.goto p).frame = s.frame := rfl
@[simp] theorem State.goto_mem (p : FgPhase) : (s.goto p).mem = s.mem := rfl
@[simp] theorem State.goto_fgFault (p : FgPhase) : (s.goto p).fgFault = s.fgFault := rfl
@[simp] theorem State.goto_handlerFault (p : FgPhase) : (s.goto p).handlerFault = s.handlerFault := rfl
@[simp] theorem State.goto_trace (p : FgPhase) : (s.goto p).trace = s.trace := rfl
@[simp] theorem State.goto_sched (p : FgPhase) : (s.goto p).sched = s.sched := rfl
@[simp] theorem State.goto_uart (p : FgPhase) (j : Unit6) : (s.goto p).uart j = s.uart j := rfl

@[simp] theorem State.startFg_par (o : FgOp) (p : FgPhase) : (s.startFg o p).par = s.par := rfl
@[simp] theorem State.startFg_cmd (o : FgOp) (p : FgPhase) : (s.startFg o p).cmd = s.cmd := rfl
@[simp] theorem State.startFg_a (o : FgOp) (p : FgPhase) : (s.startFg o p).a = s.a := rfl
@[simp] theorem State.startFg_r (o : FgOp) (p : FgPhase) : (s.startFg o p).r = s.r := rfl
@[simp] theorem State.startFg_fg (o : FgOp) (p : FgPhase) : (s.startFg o p).fg = { s.fg with op := some o, phase := p } := rfl
@[simp] theorem State.startFg_uarts (o : FgOp) (p : FgPhase) : (s.startFg o p).uarts = s.uarts := rfl
@[simp] theorem State.startFg_frame (o : FgOp) (p : FgPhase) : (s.startFg o p).frame = s.frame := rfl
@[simp] theorem State.startFg_mem (o : FgOp) (p : FgPhase) : (s.startFg o p).mem = s.mem := rfl
@[simp] theorem State.startFg_fgFault (o : FgOp) (p : FgPhase) : (s.startFg o p).fgFault = s.fgFault := rfl
@[simp] theorem State.startFg_handlerFault (o : FgOp) (p : FgPhase) : (s.startFg o p).handlerFault = s.handlerFault := rfl
@[simp] theorem State.startFg_trace (o : FgOp) (p : FgPhase) : (s.startFg o p).trace = s.trace := rfl
@[simp] theorem State.startFg_sched (o : FgOp) (p : FgPhase) : (s.startFg o p).sched = s.sched := rfl
@[simp] theorem State.startFg_uart (o : FgOp) (p : FgPhase) (j : Unit6) : (s.startFg o p).uart j = s.uart j := rfl

@[simp] theorem State.setK_par (k : Half) : (s.setK k).par = s.par := rfl
@[simp] theorem State.setK_cmd (k : Half) : (s.setK k).cmd = s.cmd := rfl
@[simp] theorem State.setK_a (k : Half) : (s.setK k).a = s.a := rfl
@[simp] theorem State.setK_r (k : Half) : (s.setK k).r = s.r := rfl
@[simp] theorem State.setK_fg (k : Half) : (s.setK k).fg = { s.fg with k := k } := rfl
@[simp] theorem State.setK_uarts (k : Half) : (s.setK k).uarts = s.uarts := rfl
@[simp] theorem State.setK_frame (k : Half) : (s.setK k).frame = s.frame := rfl
@[simp] theorem State.setK_mem (k : Half) : (s.setK k).mem = s.mem := rfl
@[simp] theorem State.setK_fgFault (k : Half) : (s.setK k).fgFault = s.fgFault := rfl
@[simp] theorem State.setK_handlerFault (k : Half) : (s.setK k).handlerFault = s.handlerFault := rfl
@[simp] theorem State.setK_trace (k : Half) : (s.setK k).trace = s.trace := rfl
@[simp] theorem State.setK_sched (k : Half) : (s.setK k).sched = s.sched := rfl
@[simp] theorem State.setK_uart (k : Half) (j : Unit6) : (s.setK k).uart j = s.uart j := rfl

@[simp] theorem State.setN_par (n : Half) : (s.setN n).par = s.par := rfl
@[simp] theorem State.setN_cmd (n : Half) : (s.setN n).cmd = s.cmd := rfl
@[simp] theorem State.setN_a (n : Half) : (s.setN n).a = s.a := rfl
@[simp] theorem State.setN_r (n : Half) : (s.setN n).r = s.r := rfl
@[simp] theorem State.setN_fg (n : Half) : (s.setN n).fg = { s.fg with n := n } := rfl
@[simp] theorem State.setN_uarts (n : Half) : (s.setN n).uarts = s.uarts := rfl
@[simp] theorem State.setN_frame (n : Half) : (s.setN n).frame = s.frame := rfl
@[simp] theorem State.setN_mem (n : Half) : (s.setN n).mem = s.mem := rfl
@[simp] theorem State.setN_fgFault (n : Half) : (s.setN n).fgFault = s.fgFault := rfl
@[simp] theorem State.setN_handlerFault (n : Half) : (s.setN n).handlerFault = s.handlerFault := rfl
@[simp] theorem State.setN_trace (n : Half) : (s.setN n).trace = s.trace := rfl
@[simp] theorem State.setN_sched (n : Half) : (s.setN n).sched = s.sched := rfl
@[simp] theorem State.setN_uart (n : Half) (j : Unit6) : (s.setN n).uart j = s.uart j := rfl

@[simp] theorem State.stickForeground_par (f : BusFault) : (s.stickForeground f).par = s.par := rfl
@[simp] theorem State.stickForeground_cmd (f : BusFault) : (s.stickForeground f).cmd = s.cmd := rfl
@[simp] theorem State.stickForeground_a (f : BusFault) : (s.stickForeground f).a = s.a := rfl
@[simp] theorem State.stickForeground_r (f : BusFault) : (s.stickForeground f).r = s.r := rfl
@[simp] theorem State.stickForeground_fg (f : BusFault) : (s.stickForeground f).fg = s.fg := rfl
@[simp] theorem State.stickForeground_uarts (f : BusFault) : (s.stickForeground f).uarts = s.uarts := rfl
@[simp] theorem State.stickForeground_frame (f : BusFault) : (s.stickForeground f).frame = s.frame := rfl
@[simp] theorem State.stickForeground_mem (f : BusFault) : (s.stickForeground f).mem = s.mem := rfl
@[simp] theorem State.stickForeground_handlerFault (f : BusFault) : (s.stickForeground f).handlerFault = s.handlerFault := rfl
@[simp] theorem State.stickForeground_trace (f : BusFault) : (s.stickForeground f).trace = s.trace := rfl
@[simp] theorem State.stickForeground_sched (f : BusFault) : (s.stickForeground f).sched = s.sched := rfl
@[simp] theorem State.stickForeground_fgFault (f : BusFault) : (s.stickForeground f).fgFault = some f := rfl
@[simp] theorem State.stickForeground_uart (f : BusFault) (j : Unit6) : (s.stickForeground f).uart j = s.uart j := rfl

@[simp] theorem State.stickHost_par (f : BusFault) : (s.stickHost f).par = s.par := by
  unfold State.stickHost; split <;> rfl
@[simp] theorem State.stickHost_cmd (f : BusFault) : (s.stickHost f).cmd = s.cmd := by
  unfold State.stickHost; split <;> rfl
@[simp] theorem State.stickHost_a (f : BusFault) : (s.stickHost f).a = s.a := by
  unfold State.stickHost; split <;> rfl
@[simp] theorem State.stickHost_r (f : BusFault) : (s.stickHost f).r = s.r := by
  unfold State.stickHost; split <;> rfl
@[simp] theorem State.stickHost_fg (f : BusFault) : (s.stickHost f).fg = s.fg := by
  unfold State.stickHost; split <;> rfl
@[simp] theorem State.stickHost_uarts (f : BusFault) : (s.stickHost f).uarts = s.uarts := by
  unfold State.stickHost; split <;> rfl
@[simp] theorem State.stickHost_frame (f : BusFault) : (s.stickHost f).frame = s.frame := by
  unfold State.stickHost; split <;> rfl
@[simp] theorem State.stickHost_mem (f : BusFault) : (s.stickHost f).mem = s.mem := by
  unfold State.stickHost; split <;> rfl
@[simp] theorem State.stickHost_trace (f : BusFault) : (s.stickHost f).trace = s.trace := by
  unfold State.stickHost; split <;> rfl
@[simp] theorem State.stickHost_sched (f : BusFault) : (s.stickHost f).sched = s.sched := by
  unfold State.stickHost; split <;> rfl
@[simp] theorem State.stickHost_fgFault (f : BusFault) :
    (s.stickHost f).fgFault = if s.allIdle then some f else s.fgFault := by
  unfold State.stickHost; split <;> rfl
@[simp] theorem State.stickHost_handlerFault (f : BusFault) :
    (s.stickHost f).handlerFault = if s.allIdle then s.handlerFault else some f := by
  unfold State.stickHost; split <;> rfl
@[simp] theorem State.stickHost_uart (f : BusFault) (j : Unit6) : (s.stickHost f).uart j = s.uart j := by
  unfold State.stickHost; split <;> rfl

/-- Reading a unit of a state built from other fields depends on the units alone. -/
theorem State.uart_congr {s t : State} (h : s.uarts = t.uarts) (j : Unit6) : s.uart j = t.uart j := by
  simp only [State.uart, h]

/-- Whether every dispatcher is Idle depends on the units alone. -/
theorem State.allIdle_congr {s t : State} (h : s.uarts = t.uarts) : s.allIdle = t.allIdle := by
  simp only [State.allIdle, h]

/-- Where the foreground may step: every dispatcher is Idle and no BusFault has made it stuck (R17, R61). -/
theorem State.foregroundMayAct_iff : s.foregroundMayAct = true ↔ s.allIdle = true ∧ s.fgFault = none := by
  simp [State.foregroundMayAct]

/-- Where the interrupt context may step (R61, R222). -/
theorem State.handlerMayAct_iff : s.handlerMayAct = true ↔ s.someHandler = true ∧ s.handlerFault = none := by
  simp [State.handlerMayAct]

end Sys2Proof.Machine
end

