-- ==== Sys2Proof/Laws/Uart.lean ====
section
/-! SUPPORT. One lemma for each field of a serial unit under each update of Machine/Flags.lean and Machine/Ops.lean, and the
commit of INIT. -/

namespace Sys2Proof.Machine

variable (u : Uart)

@[simp] theorem Uart.setSig_cfgv (d : Dir) (b : Bool) : (u.setSig d b).cfgv = u.cfgv := rfl
@[simp] theorem Uart.setSig_cfg (d : Dir) (b : Bool) : (u.setSig d b).cfg = u.cfg := rfl
@[simp] theorem Uart.setSig_brr (d : Dir) (b : Bool) : (u.setSig d b).brr = u.brr := rfl
@[simp] theorem Uart.setSig_sr (d : Dir) (b : Bool) : (u.setSig d b).sr = u.sr := rfl
@[simp] theorem Uart.setSig_tdr (d : Dir) (b : Bool) : (u.setSig d b).tdr = u.tdr := rfl
@[simp] theorem Uart.setSig_rdr (d : Dir) (b : Bool) : (u.setSig d b).rdr = u.rdr := rfl
@[simp] theorem Uart.setSig_rxact (d : Dir) (b : Bool) : (u.setSig d b).rxact = u.rxact := rfl
@[simp] theorem Uart.setSig_hslot (d : Dir) (b : Bool) : (u.setSig d b).hslot = u.hslot := rfl
@[simp] theorem Uart.setSig_sig (d : Dir) (b : Bool) : (u.setSig d b).sig = u.sig.set d b := rfl
@[simp] theorem Uart.setSig_masked (d : Dir) (b : Bool) : (u.setSig d b).masked = u.masked := rfl
@[simp] theorem Uart.setSig_dsp (d : Dir) (b : Bool) : (u.setSig d b).dsp = u.dsp := rfl
@[simp] theorem Uart.setSig_ch (d : Dir) (b : Bool) : (u.setSig d b).ch = u.ch := rfl
@[simp] theorem Uart.setSig_chFault (d : Dir) (b : Bool) : (u.setSig d b).chFault = u.chFault := rfl

@[simp] theorem Uart.setCh_cfgv (d : Dir) (c : Chan) : (u.setCh d c).cfgv = u.cfgv := rfl
@[simp] theorem Uart.setCh_cfg (d : Dir) (c : Chan) : (u.setCh d c).cfg = u.cfg := rfl
@[simp] theorem Uart.setCh_brr (d : Dir) (c : Chan) : (u.setCh d c).brr = u.brr := rfl
@[simp] theorem Uart.setCh_sr (d : Dir) (c : Chan) : (u.setCh d c).sr = u.sr := rfl
@[simp] theorem Uart.setCh_tdr (d : Dir) (c : Chan) : (u.setCh d c).tdr = u.tdr := rfl
@[simp] theorem Uart.setCh_rdr (d : Dir) (c : Chan) : (u.setCh d c).rdr = u.rdr := rfl
@[simp] theorem Uart.setCh_rxact (d : Dir) (c : Chan) : (u.setCh d c).rxact = u.rxact := rfl
@[simp] theorem Uart.setCh_hslot (d : Dir) (c : Chan) : (u.setCh d c).hslot = u.hslot := rfl
@[simp] theorem Uart.setCh_sig (d : Dir) (c : Chan) : (u.setCh d c).sig = u.sig := rfl
@[simp] theorem Uart.setCh_masked (d : Dir) (c : Chan) : (u.setCh d c).masked = u.masked := rfl
@[simp] theorem Uart.setCh_dsp (d : Dir) (c : Chan) : (u.setCh d c).dsp = u.dsp := rfl
@[simp] theorem Uart.setCh_ch (d : Dir) (c : Chan) : (u.setCh d c).ch = u.ch.set d c := rfl
@[simp] theorem Uart.setCh_chFault (d : Dir) (c : Chan) : (u.setCh d c).chFault = u.chFault := rfl

@[simp] theorem Uart.setPhase_cfgv (p : DspPhase) : (u.setPhase p).cfgv = u.cfgv := rfl
@[simp] theorem Uart.setPhase_cfg (p : DspPhase) : (u.setPhase p).cfg = u.cfg := rfl
@[simp] theorem Uart.setPhase_brr (p : DspPhase) : (u.setPhase p).brr = u.brr := rfl
@[simp] theorem Uart.setPhase_sr (p : DspPhase) : (u.setPhase p).sr = u.sr := rfl
@[simp] theorem Uart.setPhase_tdr (p : DspPhase) : (u.setPhase p).tdr = u.tdr := rfl
@[simp] theorem Uart.setPhase_rdr (p : DspPhase) : (u.setPhase p).rdr = u.rdr := rfl
@[simp] theorem Uart.setPhase_rxact (p : DspPhase) : (u.setPhase p).rxact = u.rxact := rfl
@[simp] theorem Uart.setPhase_hslot (p : DspPhase) : (u.setPhase p).hslot = u.hslot := rfl
@[simp] theorem Uart.setPhase_sig (p : DspPhase) : (u.setPhase p).sig = u.sig := rfl
@[simp] theorem Uart.setPhase_masked (p : DspPhase) : (u.setPhase p).masked = u.masked := rfl
@[simp] theorem Uart.setPhase_dsp (p : DspPhase) : (u.setPhase p).dsp = { u.dsp with phase := p } := rfl
@[simp] theorem Uart.setPhase_ch (p : DspPhase) : (u.setPhase p).ch = u.ch := rfl
@[simp] theorem Uart.setPhase_chFault (p : DspPhase) : (u.setPhase p).chFault = u.chFault := rfl

@[simp] theorem Uart.setSlot_cfgv (k : EventKind) (x : Slot) : (u.setSlot k x).cfgv = u.cfgv := rfl
@[simp] theorem Uart.setSlot_cfg (k : EventKind) (x : Slot) : (u.setSlot k x).cfg = u.cfg := rfl
@[simp] theorem Uart.setSlot_brr (k : EventKind) (x : Slot) : (u.setSlot k x).brr = u.brr := rfl
@[simp] theorem Uart.setSlot_sr (k : EventKind) (x : Slot) : (u.setSlot k x).sr = u.sr := rfl
@[simp] theorem Uart.setSlot_tdr (k : EventKind) (x : Slot) : (u.setSlot k x).tdr = u.tdr := rfl
@[simp] theorem Uart.setSlot_rdr (k : EventKind) (x : Slot) : (u.setSlot k x).rdr = u.rdr := rfl
@[simp] theorem Uart.setSlot_rxact (k : EventKind) (x : Slot) : (u.setSlot k x).rxact = u.rxact := rfl
@[simp] theorem Uart.setSlot_hslot (k : EventKind) (x : Slot) : (u.setSlot k x).hslot = u.hslot.set k x := rfl
@[simp] theorem Uart.setSlot_sig (k : EventKind) (x : Slot) : (u.setSlot k x).sig = u.sig := rfl
@[simp] theorem Uart.setSlot_masked (k : EventKind) (x : Slot) : (u.setSlot k x).masked = u.masked := rfl
@[simp] theorem Uart.setSlot_dsp (k : EventKind) (x : Slot) : (u.setSlot k x).dsp = u.dsp := rfl
@[simp] theorem Uart.setSlot_ch (k : EventKind) (x : Slot) : (u.setSlot k x).ch = u.ch := rfl
@[simp] theorem Uart.setSlot_chFault (k : EventKind) (x : Slot) : (u.setSlot k x).chFault = u.chFault := rfl

@[simp] theorem Uart.writeTdr_cfgv (b : Byte) : (u.writeTdr b).cfgv = u.cfgv := rfl
@[simp] theorem Uart.writeTdr_cfg (b : Byte) : (u.writeTdr b).cfg = u.cfg := rfl
@[simp] theorem Uart.writeTdr_brr (b : Byte) : (u.writeTdr b).brr = u.brr := rfl
@[simp] theorem Uart.writeTdr_sr (b : Byte) : (u.writeTdr b).sr = clearFlag (clearFlag u.sr .txe) .txc := rfl
@[simp] theorem Uart.writeTdr_tdr (b : Byte) : (u.writeTdr b).tdr = b := rfl
@[simp] theorem Uart.writeTdr_rdr (b : Byte) : (u.writeTdr b).rdr = u.rdr := rfl
@[simp] theorem Uart.writeTdr_rxact (b : Byte) : (u.writeTdr b).rxact = u.rxact := rfl
@[simp] theorem Uart.writeTdr_hslot (b : Byte) : (u.writeTdr b).hslot = u.hslot := rfl
@[simp] theorem Uart.writeTdr_sig (b : Byte) : (u.writeTdr b).sig = u.sig := rfl
@[simp] theorem Uart.writeTdr_masked (b : Byte) : (u.writeTdr b).masked = u.masked := rfl
@[simp] theorem Uart.writeTdr_dsp (b : Byte) : (u.writeTdr b).dsp = u.dsp := rfl
@[simp] theorem Uart.writeTdr_ch (b : Byte) : (u.writeTdr b).ch = u.ch := rfl
@[simp] theorem Uart.writeTdr_chFault (b : Byte) : (u.writeTdr b).chFault = u.chFault := rfl

@[simp] theorem Uart.takeRdr_cfgv : (u.takeRdr).cfgv = u.cfgv := rfl
@[simp] theorem Uart.takeRdr_cfg : (u.takeRdr).cfg = u.cfg := rfl
@[simp] theorem Uart.takeRdr_brr : (u.takeRdr).brr = u.brr := rfl
@[simp] theorem Uart.takeRdr_sr : (u.takeRdr).sr = clearFlag u.sr .rxr := rfl
@[simp] theorem Uart.takeRdr_tdr : (u.takeRdr).tdr = u.tdr := rfl
@[simp] theorem Uart.takeRdr_rdr : (u.takeRdr).rdr = u.rdr := rfl
@[simp] theorem Uart.takeRdr_rxact : (u.takeRdr).rxact = u.rxact := rfl
@[simp] theorem Uart.takeRdr_hslot : (u.takeRdr).hslot = u.hslot := rfl
@[simp] theorem Uart.takeRdr_sig : (u.takeRdr).sig = u.sig := rfl
@[simp] theorem Uart.takeRdr_masked : (u.takeRdr).masked = u.masked := rfl
@[simp] theorem Uart.takeRdr_dsp : (u.takeRdr).dsp = u.dsp := rfl
@[simp] theorem Uart.takeRdr_ch : (u.takeRdr).ch = u.ch := rfl
@[simp] theorem Uart.takeRdr_chFault : (u.takeRdr).chFault = u.chFault := rfl

@[simp] theorem Uart.raiseFlag_cfgv (k : EventKind) : (u.raiseFlag k).cfgv = u.cfgv := rfl
@[simp] theorem Uart.raiseFlag_cfg (k : EventKind) : (u.raiseFlag k).cfg = u.cfg := rfl
@[simp] theorem Uart.raiseFlag_brr (k : EventKind) : (u.raiseFlag k).brr = u.brr := rfl
@[simp] theorem Uart.raiseFlag_sr (k : EventKind) : (u.raiseFlag k).sr = setFlag u.sr k := rfl
@[simp] theorem Uart.raiseFlag_tdr (k : EventKind) : (u.raiseFlag k).tdr = u.tdr := rfl
@[simp] theorem Uart.raiseFlag_rdr (k : EventKind) : (u.raiseFlag k).rdr = u.rdr := rfl
@[simp] theorem Uart.raiseFlag_rxact (k : EventKind) : (u.raiseFlag k).rxact = u.rxact := rfl
@[simp] theorem Uart.raiseFlag_hslot (k : EventKind) : (u.raiseFlag k).hslot = u.hslot := rfl
@[simp] theorem Uart.raiseFlag_sig (k : EventKind) : (u.raiseFlag k).sig = u.sig := rfl
@[simp] theorem Uart.raiseFlag_masked (k : EventKind) : (u.raiseFlag k).masked = u.masked := rfl
@[simp] theorem Uart.raiseFlag_dsp (k : EventKind) : (u.raiseFlag k).dsp = u.dsp := rfl
@[simp] theorem Uart.raiseFlag_ch (k : EventKind) : (u.raiseFlag k).ch = u.ch := rfl
@[simp] theorem Uart.raiseFlag_chFault (k : EventKind) : (u.raiseFlag k).chFault = u.chFault := rfl

@[simp] theorem Uart.dispatchEnter_cfgv : (u.dispatchEnter).cfgv = u.cfgv := rfl
@[simp] theorem Uart.dispatchEnter_cfg : (u.dispatchEnter).cfg = u.cfg := rfl
@[simp] theorem Uart.dispatchEnter_brr : (u.dispatchEnter).brr = u.brr := rfl
@[simp] theorem Uart.dispatchEnter_sr : (u.dispatchEnter).sr = u.sr := rfl
@[simp] theorem Uart.dispatchEnter_tdr : (u.dispatchEnter).tdr = u.tdr := rfl
@[simp] theorem Uart.dispatchEnter_rdr : (u.dispatchEnter).rdr = u.rdr := rfl
@[simp] theorem Uart.dispatchEnter_rxact : (u.dispatchEnter).rxact = u.rxact := rfl
@[simp] theorem Uart.dispatchEnter_hslot : (u.dispatchEnter).hslot = u.hslot := rfl
@[simp] theorem Uart.dispatchEnter_sig : (u.dispatchEnter).sig = u.sig := rfl
@[simp] theorem Uart.dispatchEnter_masked : (u.dispatchEnter).masked = u.masked := rfl
@[simp] theorem Uart.dispatchEnter_dsp : (u.dispatchEnter).dsp = { u.dsp with phase := .scan .cts, snap := u.sr } := rfl
@[simp] theorem Uart.dispatchEnter_ch : (u.dispatchEnter).ch = u.ch := rfl
@[simp] theorem Uart.dispatchEnter_chFault : (u.dispatchEnter).chFault = u.chFault := rfl

@[simp] theorem Uart.advance_cfgv (k : EventKind) : (u.advance k).cfgv = u.cfgv := rfl
@[simp] theorem Uart.advance_cfg (k : EventKind) : (u.advance k).cfg = u.cfg := rfl
@[simp] theorem Uart.advance_brr (k : EventKind) : (u.advance k).brr = u.brr := rfl
@[simp] theorem Uart.advance_sr (k : EventKind) : (u.advance k).sr = u.sr := rfl
@[simp] theorem Uart.advance_tdr (k : EventKind) : (u.advance k).tdr = u.tdr := rfl
@[simp] theorem Uart.advance_rdr (k : EventKind) : (u.advance k).rdr = u.rdr := rfl
@[simp] theorem Uart.advance_rxact (k : EventKind) : (u.advance k).rxact = u.rxact := rfl
@[simp] theorem Uart.advance_hslot (k : EventKind) : (u.advance k).hslot = u.hslot := rfl
@[simp] theorem Uart.advance_sig (k : EventKind) : (u.advance k).sig = u.sig := rfl
@[simp] theorem Uart.advance_masked (k : EventKind) : (u.advance k).masked = u.masked := rfl
@[simp] theorem Uart.advance_dsp (k : EventKind) : (u.advance k).dsp = { u.dsp with phase := nextPhase k } := rfl
@[simp] theorem Uart.advance_ch (k : EventKind) : (u.advance k).ch = u.ch := rfl
@[simp] theorem Uart.advance_chFault (k : EventKind) : (u.advance k).chFault = u.chFault := rfl

@[simp] theorem Uart.clearKind_cfgv (k : EventKind) : (u.clearKind k).cfgv = u.cfgv := by
  unfold Uart.clearKind; split <;> rfl
@[simp] theorem Uart.clearKind_cfg (k : EventKind) : (u.clearKind k).cfg = u.cfg := by
  unfold Uart.clearKind; split <;> rfl
@[simp] theorem Uart.clearKind_brr (k : EventKind) : (u.clearKind k).brr = u.brr := by
  unfold Uart.clearKind; split <;> rfl
@[simp] theorem Uart.clearKind_sr (k : EventKind) :
    (u.clearKind k).sr = if k = .txe then u.sr else clearFlag u.sr k := by
  unfold Uart.clearKind; split <;> rfl
@[simp] theorem Uart.clearKind_tdr (k : EventKind) : (u.clearKind k).tdr = u.tdr := by
  unfold Uart.clearKind; split <;> rfl
@[simp] theorem Uart.clearKind_rdr (k : EventKind) : (u.clearKind k).rdr = u.rdr := by
  unfold Uart.clearKind; split <;> rfl
@[simp] theorem Uart.clearKind_rxact (k : EventKind) : (u.clearKind k).rxact = u.rxact := by
  unfold Uart.clearKind; split <;> rfl
@[simp] theorem Uart.clearKind_hslot (k : EventKind) : (u.clearKind k).hslot = u.hslot := by
  unfold Uart.clearKind; split <;> rfl
@[simp] theorem Uart.clearKind_sig (k : EventKind) : (u.clearKind k).sig = u.sig := by
  unfold Uart.clearKind; split <;> rfl
@[simp] theorem Uart.clearKind_masked (k : EventKind) : (u.clearKind k).masked = u.masked := by
  unfold Uart.clearKind; split <;> rfl
@[simp] theorem Uart.clearKind_dsp (k : EventKind) : (u.clearKind k).dsp = u.dsp := by
  unfold Uart.clearKind; split <;> rfl
@[simp] theorem Uart.clearKind_ch (k : EventKind) : (u.clearKind k).ch = u.ch := by
  unfold Uart.clearKind; split <;> rfl
@[simp] theorem Uart.clearKind_chFault (k : EventKind) : (u.clearKind k).chFault = u.chFault := by
  unfold Uart.clearKind; split <;> rfl

@[simp] theorem Uart.finish_cfgv (k : EventKind) : (u.finish k).cfgv = u.cfgv := by simp [Uart.finish]
@[simp] theorem Uart.finish_cfg (k : EventKind) : (u.finish k).cfg = u.cfg := by simp [Uart.finish]
@[simp] theorem Uart.finish_brr (k : EventKind) : (u.finish k).brr = u.brr := by simp [Uart.finish]
@[simp] theorem Uart.finish_sr (k : EventKind) : (u.finish k).sr = (u.clearKind k).sr := by simp [Uart.finish]
@[simp] theorem Uart.finish_tdr (k : EventKind) : (u.finish k).tdr = u.tdr := by simp [Uart.finish]
@[simp] theorem Uart.finish_rdr (k : EventKind) : (u.finish k).rdr = u.rdr := by simp [Uart.finish]
@[simp] theorem Uart.finish_rxact (k : EventKind) : (u.finish k).rxact = u.rxact := by simp [Uart.finish]
@[simp] theorem Uart.finish_hslot (k : EventKind) : (u.finish k).hslot = u.hslot := by simp [Uart.finish]
@[simp] theorem Uart.finish_sig (k : EventKind) : (u.finish k).sig = u.sig := by simp [Uart.finish]
@[simp] theorem Uart.finish_masked (k : EventKind) : (u.finish k).masked = u.masked := by simp [Uart.finish]
@[simp] theorem Uart.finish_dsp (k : EventKind) : (u.finish k).dsp = { u.dsp with phase := nextPhase k } := by simp [Uart.finish]
@[simp] theorem Uart.finish_ch (k : EventKind) : (u.finish k).ch = u.ch := by simp [Uart.finish]
@[simp] theorem Uart.finish_chFault (k : EventKind) : (u.finish k).chFault = u.chFault := by simp [Uart.finish]

@[simp] theorem Uart.stickCh_cfgv (d : Dir) (f : BusFault) : (u.stickCh d f).cfgv = u.cfgv := rfl
@[simp] theorem Uart.stickCh_cfg (d : Dir) (f : BusFault) : (u.stickCh d f).cfg = u.cfg := rfl
@[simp] theorem Uart.stickCh_brr (d : Dir) (f : BusFault) : (u.stickCh d f).brr = u.brr := rfl
@[simp] theorem Uart.stickCh_sr (d : Dir) (f : BusFault) : (u.stickCh d f).sr = u.sr := rfl
@[simp] theorem Uart.stickCh_tdr (d : Dir) (f : BusFault) : (u.stickCh d f).tdr = u.tdr := rfl
@[simp] theorem Uart.stickCh_rdr (d : Dir) (f : BusFault) : (u.stickCh d f).rdr = u.rdr := rfl
@[simp] theorem Uart.stickCh_rxact (d : Dir) (f : BusFault) : (u.stickCh d f).rxact = u.rxact := rfl
@[simp] theorem Uart.stickCh_hslot (d : Dir) (f : BusFault) : (u.stickCh d f).hslot = u.hslot := rfl
@[simp] theorem Uart.stickCh_sig (d : Dir) (f : BusFault) : (u.stickCh d f).sig = u.sig := rfl
@[simp] theorem Uart.stickCh_masked (d : Dir) (f : BusFault) : (u.stickCh d f).masked = u.masked := rfl
@[simp] theorem Uart.stickCh_dsp (d : Dir) (f : BusFault) : (u.stickCh d f).dsp = u.dsp := rfl
@[simp] theorem Uart.stickCh_ch (d : Dir) (f : BusFault) : (u.stickCh d f).ch = u.ch := rfl
@[simp] theorem Uart.stickCh_chFault (d : Dir) (f : BusFault) :
    (u.stickCh d f).chFault = u.chFault.set d (some f) := rfl

/-- A channel is not stuck exactly when no BusFault of it is recorded (R61). -/
theorem Uart.chStuck_eq_false {u : Uart} {d : Dir} : u.chStuck d = false ↔ u.chFault.get d = none := by
  simp [Uart.chStuck]

end Sys2Proof.Machine
end

