-- ==== Sys2Proof/Laws/Units.lean ====
section
/-! SUPPORT. Reading and replacing the value of one unit, one direction, one event kind; and what the tests over all units say. -/

namespace Sys2Proof

@[simp] theorem PerUnit.get_set_same {α : Type} (v : PerUnit α) (i : Unit6) (x : α) : (v.set i x).get i = x := by
  cases i <;> rfl

theorem PerUnit.get_set_ne {α : Type} (v : PerUnit α) {i j : Unit6} (x : α) (h : j ≠ i) :
    (v.set i x).get j = v.get j := by
  cases i <;> cases j <;> first | rfl | exact absurd rfl h

@[simp] theorem PerUnit.get_fill {α : Type} (x : α) (i : Unit6) : (PerUnit.fill x).get i = x := by
  cases i <;> rfl

theorem PerUnit.all_eq_true {α : Type} (v : PerUnit α) (f : α → Bool) :
    v.all f = true ↔ ∀ i, f (v.get i) = true := by
  constructor
  · intro h i
    simp only [PerUnit.all, Bool.and_eq_true] at h
    cases i <;> simp only [PerUnit.get, h]
  · intro h
    simp only [PerUnit.all, Bool.and_eq_true]
    exact ⟨⟨⟨⟨⟨h .u1, h .u2⟩, h .u3⟩, h .u4⟩, h .u5⟩, h .u6⟩

theorem PerUnit.any_eq_true {α : Type} (v : PerUnit α) (f : α → Bool) :
    v.any f = true ↔ ∃ i, f (v.get i) = true := by
  constructor
  · intro h
    simp only [PerUnit.any, Bool.or_eq_true] at h
    rcases h with ((((h | h) | h) | h) | h) | h
    · exact ⟨.u1, h⟩
    · exact ⟨.u2, h⟩
    · exact ⟨.u3, h⟩
    · exact ⟨.u4, h⟩
    · exact ⟨.u5, h⟩
    · exact ⟨.u6, h⟩
  · rintro ⟨i, h⟩
    cases i <;> simp only [PerUnit.get] at h <;> simp [PerUnit.any, h]

/-- Two tuples that agree on every unit are equal. -/
theorem PerUnit.ext_get {α : Type} {v w : PerUnit α} (h : ∀ i, v.get i = w.get i) : v = w := by
  cases v; cases w
  simp only [PerUnit.mk.injEq]
  exact ⟨h .u1, h .u2, h .u3, h .u4, h .u5, h .u6⟩

namespace Machine

@[simp] theorem State.uart_setUart_same (s : State) (i : Unit6) (u : Uart) : (s.setUart i u).uart i = u := by
  simp [State.uart]

theorem State.uart_setUart_ne (s : State) {i j : Unit6} (u : Uart) (h : j ≠ i) :
    (s.setUart i u).uart j = s.uart j := by
  simp [State.uart, PerUnit.get_set_ne _ _ h]

/-- A replaced unit, read at any unit. -/
theorem State.uart_setUart (s : State) (i j : Unit6) (u : Uart) :
    (s.setUart i u).uart j = if j = i then u else s.uart j := by
  split
  · subst_vars; simp
  · exact State.uart_setUart_ne s u ‹_›

@[simp] theorem PerDir.get_rx {α : Type} (v : PerDir α) : v.get .rx = v.rx := rfl
@[simp] theorem PerDir.get_tx {α : Type} (v : PerDir α) : v.get .tx = v.tx := rfl
@[simp] theorem PerDir.set_rx_rx {α : Type} (v : PerDir α) (x : α) : (v.set .rx x).rx = x := rfl
@[simp] theorem PerDir.set_rx_tx {α : Type} (v : PerDir α) (x : α) : (v.set .rx x).tx = v.tx := rfl
@[simp] theorem PerDir.set_tx_rx {α : Type} (v : PerDir α) (x : α) : (v.set .tx x).rx = v.rx := rfl
@[simp] theorem PerDir.set_tx_tx {α : Type} (v : PerDir α) (x : α) : (v.set .tx x).tx = x := rfl

theorem PerDir.get_set {α : Type} (v : PerDir α) (d e : Dir) (x : α) :
    (v.set d x).get e = if e = d then x else v.get e := by
  cases d <;> cases e <;> rfl

theorem PerKind.get_set {α : Type} (v : PerKind α) (k j : EventKind) (x : α) :
    (v.set k x).get j = if j = k then x else v.get j := by
  cases k <;> cases j <;> rfl

/-- The foreground context, read unit by unit (R240). -/
theorem State.allIdle_iff (s : State) : s.allIdle = true ↔ ∀ i, (s.uart i).dsp.phase = .idle := by
  simp [State.allIdle, PerUnit.all_eq_true, State.uart]

/-- The interrupt context, read unit by unit (R240). -/
theorem State.someHandler_iff (s : State) :
    s.someHandler = true ↔ ∃ i k, (s.uart i).dsp.phase = .inHandler k := by
  simp only [State.someHandler, PerUnit.any_eq_true, State.uart]
  constructor
  · rintro ⟨i, h⟩
    cases hp : (s.uarts.get i).dsp.phase with
    | inHandler k => exact ⟨i, k, hp⟩
    | idle => simp [hp, DspPhase.isHandler] at h
    | scan k => simp [hp, DspPhase.isHandler] at h
    | frame f => simp [hp, DspPhase.isHandler] at h
  · rintro ⟨i, k, h⟩
    exact ⟨i, by simp [h, DspPhase.isHandler]⟩

/-- A unit whose dispatcher phase is kept keeps the foreground context. -/
theorem State.allIdle_setUart (s : State) (i : Unit6) (u : Uart) (h : u.dsp.phase = (s.uart i).dsp.phase) :
    (s.setUart i u).allIdle = s.allIdle := by
  rw [Bool.eq_iff_iff, State.allIdle_iff, State.allIdle_iff]
  refine forall_congr' fun j => ?_
  rw [State.uart_setUart]
  split
  · subst_vars; rw [h]
  · rfl

end Machine

end Sys2Proof
end

