-- ==== Sys2Proof/Laws/Flags.lean ====
section
/-! SUPPORT. Reading a status flag after setting or clearing one, and the interrupt request as a statement over the event kinds. -/

namespace Sys2Proof.Machine

/-- A flag after one flag is set. -/
theorem flag_setFlag (sr : BitVec 7) (k j : EventKind) :
    flag (setFlag sr k) j = (decide (j = k) || flag sr j) := by
  cases k <;> cases j <;> simp [flag, setFlag, EventKind.num]

/-- A flag after one flag is cleared. -/
theorem flag_clearFlag (sr : BitVec 7) (k j : EventKind) :
    flag (clearFlag sr k) j = (!decide (j = k) && flag sr j) := by
  cases k <;> cases j <;> simp [flag, clearFlag, EventKind.num]

@[simp] theorem flag_setFlag_same (sr : BitVec 7) (k : EventKind) : flag (setFlag sr k) k = true := by
  simp [flag_setFlag]

@[simp] theorem flag_clearFlag_same (sr : BitVec 7) (k : EventKind) : flag (clearFlag sr k) k = false := by
  simp [flag_clearFlag]

theorem flag_setFlag_ne (sr : BitVec 7) {k j : EventKind} (h : j ≠ k) : flag (setFlag sr k) j = flag sr j := by
  simp [flag_setFlag, h]

theorem flag_clearFlag_ne (sr : BitVec 7) {k j : EventKind} (h : j ≠ k) : flag (clearFlag sr k) j = flag sr j := by
  simp [flag_clearFlag, h]

/-- The flags of INIT's start status (R151). -/
theorem flag_srStart (k : EventKind) : flag srStart k = (decide (k = .txe) || decide (k = .txc)) := by
  cases k <;> rfl

/-- A status value is determined by its flags. -/
theorem sr_ext {x y : BitVec 7} (h : ∀ k, flag x k = flag y k) : x = y := by
  apply BitVec.eq_of_getLsbD_eq
  intro i hi
  match i, hi with
  | 0, _ => exact h .cts
  | 1, _ => exact h .brk
  | 2, _ => exact h .txe
  | 3, _ => exact h .txc
  | 4, _ => exact h .rxr
  | 5, _ => exact h .idle
  | 6, _ => exact h .pe

/-- Some flag is set whose enable bit is set (R212). -/
theorem requests_iff (sr : BitVec 7) (ie : BitVec 8) :
    requests sr ie = true ↔ ∃ k, flag sr k = true ∧ enables ie k = true := by
  constructor
  · intro h
    simp only [requests, Bool.or_eq_true, Bool.and_eq_true] at h
    rcases h with (((((h | h) | h) | h) | h) | h) | h
    · exact ⟨_, h⟩
    · exact ⟨_, h⟩
    · exact ⟨_, h⟩
    · exact ⟨_, h⟩
    · exact ⟨_, h⟩
    · exact ⟨_, h⟩
    · exact ⟨_, h⟩
  · rintro ⟨k, h1, h2⟩
    cases k <;> simp [requests, h1, h2]

end Sys2Proof.Machine
end

