-- ==== Sys2Proof/Laws/Memory.lean ====
section
/-! SUPPORT. The laws of system memory: a byte read after a store, and that every store keeps the canonical form. -/

namespace Sys2Proof.Machine

/-- Every address a memory lists is above x. -/
def Memory.Above (x : Nat) (m : Memory) : Prop := ∀ c ∈ m, x < c.1

theorem Memory.read_of_above {x : Nat} {m : Memory} (h : Memory.Above x m) : m.read x = unlistedByte := by
  induction m with
  | nil => rfl
  | cons c m ih =>
    obtain ⟨a, b⟩ := c
    have ha : x < a := h (a, b) (by simp)
    rw [Memory.read, if_neg (by omega)]
    exact ih fun d hd => h d (by simp [hd])

theorem Memory.read_consCell (x : Nat) (v : Byte) {m : Memory} (h : Memory.Above x m) (y : Nat) :
    (Memory.consCell x v m).read y = if y = x then v else m.read y := by
  unfold Memory.consCell
  split
  · split
    · subst_vars; exact Memory.read_of_above h
    · rfl
  · rfl

theorem Memory.wf_tail {c : Host.Cell} {m : Memory} (h : Memory.wf (c :: m)) : Memory.wf m :=
  ⟨h.1.of_cons, fun d hd => h.2 d (by simp [hd])⟩

theorem Memory.above_of_wf {a : Nat} {b : Byte} {m : Memory} (h : Memory.wf ((a, b) :: m)) : Memory.Above a m :=
  fun d hd => (List.pairwise_cons.mp h.1).1 d hd

/-- A store changes one byte and no other (R62). -/
theorem Memory.read_write {m : Memory} (h : m.wf) (x : Nat) (v : Byte) (y : Nat) :
    (m.write x v).read y = if y = x then v else m.read y := by
  induction m with
  | nil => exact Memory.read_consCell x v (fun _ hc => by simp at hc) y
  | cons c m ih =>
    obtain ⟨a, b⟩ := c
    have hab := Memory.above_of_wf h
    unfold Memory.write
    split
    · rename_i hxa
      refine Memory.read_consCell x v (fun d hd => ?_) y
      rcases List.mem_cons.mp hd with rfl | hd
      · exact hxa
      · exact Nat.lt_trans hxa (hab d hd)
    · split
      · subst_vars
        rw [Memory.read_consCell _ v hab y]
        split
        · rfl
        · rw [Memory.read, if_neg ‹_›]
      · rw [Memory.read, Memory.read, ih (Memory.wf_tail h)]
        split <;> split <;> first | rfl | omega

theorem Memory.read_write_same {m : Memory} (h : m.wf) (x : Nat) (v : Byte) : (m.write x v).read x = v := by
  simp [Memory.read_write h]

theorem Memory.read_write_ne {m : Memory} (h : m.wf) {x y : Nat} (v : Byte) (hne : y ≠ x) :
    (m.write x v).read y = m.read y := by
  simp [Memory.read_write h, hne]

theorem Memory.mem_consCell {x : Nat} {v : Byte} {m : Memory} {c : Host.Cell} (h : c ∈ Memory.consCell x v m) :
    (c = (x, v) ∧ v ≠ unlistedByte) ∨ c ∈ m := by
  unfold Memory.consCell at h
  split at h
  · exact .inr h
  · rcases List.mem_cons.mp h with rfl | h
    · exact .inl ⟨rfl, ‹_›⟩
    · exact .inr h

theorem Memory.wf_consCell {x : Nat} {v : Byte} {m : Memory} (hx : x < 2 ^ 32) (ha : Memory.Above x m) (h : m.wf) :
    Memory.wf (Memory.consCell x v m) := by
  unfold Memory.consCell
  split
  · exact h
  · refine ⟨List.pairwise_cons.mpr ⟨fun c hc => ha c hc, h.1⟩, fun c hc => ?_⟩
    rcases List.mem_cons.mp hc with rfl | hc
    · exact ⟨hx, ‹_›⟩
    · exact h.2 c hc

theorem Memory.mem_write {m : Memory} {x : Nat} {v : Byte} {c : Host.Cell} (h : c ∈ m.write x v) :
    c = (x, v) ∨ c ∈ m := by
  induction m with
  | nil => exact (Memory.mem_consCell h).imp (·.1) id
  | cons d m ih =>
    obtain ⟨a, b⟩ := d
    unfold Memory.write at h
    split at h
    · exact (Memory.mem_consCell h).imp (·.1) id
    · split at h
      · exact (Memory.mem_consCell h).imp (·.1) fun h => by simp [h]
      · rcases List.mem_cons.mp h with rfl | h
        · exact .inr (by simp)
        · exact (ih h).imp id fun h => by simp [h]

/-- A store keeps the canonical form. -/
theorem Memory.wf_write {m : Memory} (h : m.wf) {x : Nat} (hx : x < 2 ^ 32) (v : Byte) : (m.write x v).wf := by
  induction m with
  | nil => exact Memory.wf_consCell hx (fun _ hc => by simp at hc) h
  | cons c m ih =>
    obtain ⟨a, b⟩ := c
    have hab := Memory.above_of_wf h
    unfold Memory.write
    split
    · rename_i hxa
      refine Memory.wf_consCell hx (fun d hd => ?_) h
      rcases List.mem_cons.mp hd with rfl | hd
      · exact hxa
      · exact Nat.lt_trans hxa (hab d hd)
    · split
      · subst_vars
        exact Memory.wf_consCell hx hab (Memory.wf_tail h)
      · have hw := ih (Memory.wf_tail h)
        refine ⟨List.pairwise_cons.mpr ⟨fun d hd => ?_, hw.1⟩, fun d hd => ?_⟩
        · rcases Memory.mem_write hd with rfl | hd
          · show a < x
            omega
          · exact hab d hd
        · rcases List.mem_cons.mp hd with rfl | hd
          · exact h.2 _ (by simp)
          · exact hw.2 d hd

theorem memRead_ok {p : Params} {m : Memory} {a : Word} {b : Byte} (h : memRead p m a = .ok b) :
    memValid p a = true ∧ b = m.read a.toNat := by
  unfold memRead at h
  split at h
  · cases h; exact ⟨‹_›, rfl⟩
  · cases h

theorem memRead_valid {p : Params} {a : Word} (h : memValid p a = true) (m : Memory) :
    memRead p m a = .ok (m.read a.toNat) := by
  simp [memRead, h]

theorem memWrite_ok {p : Params} {m m' : Memory} {a : Word} {v : Byte} (h : memWrite p m a v = .ok m') :
    memValid p a = true ∧ m' = m.write a.toNat v := by
  unfold memWrite at h
  split at h
  · cases h; exact ⟨‹_›, rfl⟩
  · cases h

theorem memWrite_valid {p : Params} {a : Word} (h : memValid p a = true) (m : Memory) (v : Byte) :
    memWrite p m a v = .ok (m.write a.toNat v) := by
  simp [memWrite, h]

/-- A read or a store fails only where MEM_VALID is false, with the BusFault of that address (R61, R62). -/
theorem memRead_error {p : Params} {m : Memory} {a : Word} {f : BusFault} (h : memRead p m a = .error f) :
    memValid p a = false ∧ f = ⟨a⟩ := by
  unfold memRead at h
  split at h
  · cases h
  · cases h; exact ⟨by simpa using ‹¬ memValid p a = true›, rfl⟩

theorem memWrite_error {p : Params} {m : Memory} {a : Word} {v : Byte} {f : BusFault}
    (h : memWrite p m a v = .error f) : memValid p a = false ∧ f = ⟨a⟩ := by
  unfold memWrite at h
  split at h
  · cases h
  · cases h; exact ⟨by simpa using ‹¬ memValid p a = true›, rfl⟩

theorem memWrite_invalid {p : Params} {a : Word} (h : memValid p a = false) (m : Memory) (v : Byte) :
    memWrite p m a v = .error ⟨a⟩ := by
  simp [memWrite, h]

theorem memRead_invalid {p : Params} {a : Word} (h : memValid p a = false) (m : Memory) :
    memRead p m a = .error ⟨a⟩ := by
  simp [memRead, h]

/-- MemWrite keeps the canonical form. -/
theorem memWrite_wf {p : Params} {m m' : Memory} {a : Word} {v : Byte} (hm : m.wf)
    (h : memWrite p m a v = .ok m') : m'.wf := by
  rw [(memWrite_ok h).2]
  exact Memory.wf_write hm a.isLt v

end Sys2Proof.Machine
end

