-- ==== Sys2Proof/Laws/Ops.lean ====
section
/-! SUPPORT. One lemma for each shared operation that says everything it can do when it answers a next state; the meanings' and
the agents' proofs cite these and do not unfold the operations. -/

namespace Sys2Proof.Machine

@[simp] theorem Out.andThen_next (s : State) (k : State → Out) : Out.andThen (.next s) k = k s := rfl
@[simp] theorem Out.andThen_fault (f : Fault) (k : State → Out) : Out.andThen (.fault f) k = .fault f := rfl
@[simp] theorem Out.andThen_refused (r : Refusal) (k : State → Out) : Out.andThen (.refused r) k = .refused r := rfl

theorem Out.andThen_eq_next {o : Out} {k : State → Out} {t : State} (h : o.andThen k = .next t) :
    ∃ s, o = .next s ∧ k s = .next t := by
  cases o with
  | next s => exact ⟨s, rfl, h⟩
  | fault f => cases h
  | refused r => cases h

@[simp] theorem runMoves_nil (s : State) : runMoves [] s = .next s := rfl

@[simp] theorem runMoves_cons (m : Move) (ms : List Move) (s : State) :
    runMoves (m :: ms) s = (agentStep m s).andThen (runMoves ms) := rfl

/-- A run of two lists of moves is the run of the second from where the first ends. -/
theorem runMoves_append (ms ns : List Move) (s : State) :
    runMoves (ms ++ ns) s = (runMoves ms s).andThen (runMoves ns) := by
  induction ms generalizing s with
  | nil => rfl
  | cons m ms ih =>
    rw [List.cons_append, runMoves_cons, runMoves_cons]
    cases agentStep m s with
    | next t => exact ih t
    | fault f => rfl
    | refused r => rfl

/-! ### Acceptance -/

theorem acceptForeground_free {s : State} (h : s.foregroundFree) (k : State → Out) : acceptForeground s k = k s := by
  simp [acceptForeground, State.foregroundMayAct, h.1, h.2.1, h.2.2]

theorem acceptForeground_next {s t : State} {k : State → Out} (h : acceptForeground s k = .next t) :
    s.foregroundFree ∧ k s = .next t := by
  unfold acceptForeground at h
  split at h
  · split at h
    · cases h
    · split at h
      · next hm =>
        exact ⟨⟨‹_›, by simpa using ‹¬ s.fg.op.isSome = true›, (s.foregroundMayAct_iff.mp hm).2⟩, h⟩
      · cases h
  · split at h <;> cases h

theorem acceptAny_context {s : State} (h : s.hostContext) (k : State → Out) : acceptAny s k = k s := by
  rcases h with h | h
  · simp [acceptAny, h.1, acceptForeground_free h]
  · simp [acceptAny, State.handlerMayAct, h.1, h.2]

theorem acceptAny_next {s t : State} {k : State → Out} (h : acceptAny s k = .next t) :
    s.hostContext ∧ k s = .next t := by
  unfold acceptAny at h
  split at h
  · obtain ⟨hf, hk⟩ := acceptForeground_next h
    exact ⟨.inl hf, hk⟩
  · split at h
    · next hm => exact ⟨.inr ⟨by simpa using ‹¬ s.allIdle = true›, s.handlerMayAct_iff.mp hm⟩, h⟩
    · cases h

theorem illegalCommand_next {s t : State} (h : illegalCommand s = .next t) :
    s.hostMayAct = true ∧ t = s.raise .illegal := by
  unfold illegalCommand at h
  split at h
  · cases h; exact ⟨‹_›, rfl⟩
  · cases h

/-! ### The DMA channel interface -/

/-- The guard of the receive service (R133), of a channel that is not stuck (R61). -/
def Uart.rxTakes (u : Uart) : Bool := u.dmaRx && u.ch.rx.active && flag u.sr .rxr && !u.chStuck .rx

/-- The receive service does nothing, moves the waiting byte to the stream's next address (R133), or, that address
being invalid, records the BusFault and makes its channel stuck (R62, R238). -/
theorem rxService_ok {p : Params} {i : Unit6} {u u' : Uart} {m m' : Memory}
    (h : rxService p i u m = .ok (u', m')) :
    (u.rxTakes = false ∧ u' = u ∧ m' = m) ∨
    (u.rxTakes = true ∧ ∃ base, u.ch.rx.dst = .mem base ∧
      memWrite p m (byteAddr base u.ch.rx.off) u.rdr = .ok m' ∧
      u' = u.takeRdr.setCh .rx u.ch.rx.rxAdvance) ∨
    (u.rxTakes = true ∧ ∃ base, u.ch.rx.dst = .mem base ∧
      memValid p (byteAddr base u.ch.rx.off) = false ∧ m' = m ∧
      u' = u.stickCh .rx ⟨byteAddr base u.ch.rx.off⟩) := by
  simp only [rxService] at h
  split at h
  · next hg =>
    split at h
    · cases h
    · next base hd =>
      split at h
      · next f hw =>
        obtain ⟨hv, rfl⟩ := memWrite_error hw
        cases h
        exact .inr (.inr ⟨hg, base, hd, hv, rfl, rfl⟩)
      · next m1 hw =>
        cases h
        exact .inr (.inl ⟨hg, base, hd, hw, rfl⟩)
  · next hg =>
    cases h
    exact .inl ⟨by simpa [Uart.rxTakes] using hg, rfl, rfl⟩

/-- With no byte to take or no stream to take it, the receive service does nothing. -/
theorem rxService_idle {p : Params} {i : Unit6} {u : Uart} {m : Memory} (h : u.rxTakes = false) :
    rxService p i u m = .ok (u, m) := by
  simp only [rxService]
  rw [if_neg (by simpa [Uart.rxTakes] using h)]

/-- An active stream takes the waiting byte, where its address is backed by memory. -/
theorem rxService_takes {p : Params} {i : Unit6} {u : Uart} {m : Memory} {base : Word} (h : u.rxTakes = true)
    (hd : u.ch.rx.dst = .mem base) (hv : memValid p (byteAddr base u.ch.rx.off) = true) :
    rxService p i u m =
      .ok (u.takeRdr.setCh .rx u.ch.rx.rxAdvance, m.write (byteAddr base u.ch.rx.off).toNat u.rdr) := by
  simp only [rxService]
  rw [if_pos (by simpa [Uart.rxTakes] using h), hd]
  simp [memWrite_valid hv]

/-- Where its address is not backed by memory, the stream is stuck with the BusFault recorded. -/
theorem rxService_sticks {p : Params} {i : Unit6} {u : Uart} {m : Memory} {base : Word} (h : u.rxTakes = true)
    (hd : u.ch.rx.dst = .mem base) (hv : memValid p (byteAddr base u.ch.rx.off) = false) :
    rxService p i u m = .ok (u.stickCh .rx ⟨byteAddr base u.ch.rx.off⟩, m) := by
  simp only [rxService]
  rw [if_pos (by simpa [Uart.rxTakes] using h), hd]
  simp [memWrite_invalid hv]

theorem rxServiceStep_next {i : Unit6} {s t : State} (h : rxServiceStep i s = .next t) :
    ∃ u m, rxService s.par i (s.uart i) s.mem = .ok (u, m) ∧ t = { s.setUart i u with mem := m } := by
  unfold rxServiceStep at h
  split at h
  · cases h
  · next u m hr => cases h; exact ⟨u, m, hr, rfl⟩

theorem armStep_next {i : Unit6} {d : Dir} {dir : XferDir} {src dst : Endpoint} {len : Half} {circ : Bool}
    {prio : BitVec 2} {s t : State} (h : armStep i d dir src dst len circ prio s = .next t) :
    ((s.uart i).ch.get d).outstanding = false ∧
    t = s.setUart i ((s.uart i).setCh d (((s.uart i).ch.get d).arm dir src dst len circ prio)) := by
  simp only [armStep] at h
  split at h
  · cases h
  · next hn => cases h; exact ⟨by simpa using hn, rfl⟩

theorem armStep_free {i : Unit6} {d : Dir} {s : State} (h : ((s.uart i).ch.get d).outstanding = false)
    (dir : XferDir) (src dst : Endpoint) (len : Half) (circ : Bool) (prio : BitVec 2) :
    armStep i d dir src dst len circ prio s =
      .next (s.setUart i ((s.uart i).setCh d (((s.uart i).ch.get d).arm dir src dst len circ prio))) := by
  simp [armStep, h]

theorem triggerStep_tx_next {i : Unit6} {s t : State} (h : triggerStep i .tx s = .next t) :
    (s.uart i).ch.tx.outstanding = false ∧
    t = (s.setUart i ((s.uart i).setCh .tx { (s.uart i).ch.tx with active := true })).emit (.trigger i .tx) := by
  unfold triggerStep at h
  by_cases ho : (s.uart i).ch.tx.outstanding = true
  · simp [ho] at h
  · simp only [PerDir.get_tx, ho] at h
    cases h
    exact ⟨by simpa using ho, rfl⟩

theorem triggerStep_rx_next {i : Unit6} {s t : State} (h : triggerStep i .rx s = .next t) :
    (s.uart i).ch.rx.outstanding = false ∧
    rxServiceStep i
      ((s.setUart i ((s.uart i).setCh .rx { (s.uart i).ch.rx with active := true })).emit (.trigger i .rx)) =
      .next t := by
  unfold triggerStep at h
  by_cases ho : (s.uart i).ch.rx.outstanding = true
  · simp [ho] at h
  · simp only [PerDir.get_rx, ho] at h
    exact ⟨by simpa using ho, h⟩

theorem triggerStep_tx_free {i : Unit6} {s : State} (h : (s.uart i).ch.tx.outstanding = false) :
    triggerStep i .tx s =
      .next ((s.setUart i ((s.uart i).setCh .tx { (s.uart i).ch.tx with active := true })).emit (.trigger i .tx)) := by
  simp [triggerStep, h]

theorem triggerStep_rx_free {i : Unit6} {s : State} (h : (s.uart i).ch.rx.outstanding = false) :
    triggerStep i .rx s = rxServiceStep i
      ((s.setUart i ((s.uart i).setCh .rx { (s.uart i).ch.rx with active := true })).emit (.trigger i .rx)) := by
  simp [triggerStep, h]

@[simp] theorem Chan.arm_outstanding (c : Chan) (dir : XferDir) (src dst : Endpoint) (len : Half) (circ : Bool)
    (prio : BitVec 2) : (c.arm dir src dst len circ prio).outstanding = c.active := by
  simp [Chan.arm, Chan.outstanding]

/-! ### Binding -/

/-- A unit is bound only past every check of INIT, and then by INIT's commit (R151). -/
theorem bindUart_bound {p : Params} {i : Unit6} {baud opts : Word} {u u' : Uart}
    (h : bindUart p i baud opts u = .bound u') :
    u.cfgv = false ∧ optionsReserved opts = 0#15 ∧ baud ≠ 0#32 ∧
    modeSupported p (unpackOptions baud opts) = true ∧
    ∃ brr, configDivisor p i (unpackOptions baud opts) = some brr ∧
      u' = u.commitBind (unpackOptions baud opts) brr := by
  simp only [bindUart] at h
  split at h
  · cases h
  split at h
  · cases h
  split at h
  · cases h
  split at h
  · cases h
  split at h
  · cases h
  · next h1 h2 h3 h4 _ brr hb =>
    cases h
    exact ⟨by simpa using h1, by simpa using h2, h3, by simpa using h4, brr, hb, rfl⟩

/-- The checks of INIT passed: the unit is bound (R151). -/
theorem bindUart_ok {p : Params} {i : Unit6} {baud opts : Word} {u : Uart} {brr : Half} (h1 : u.cfgv = false)
    (h2 : optionsReserved opts = 0#15) (h3 : baud ≠ 0#32) (h4 : modeSupported p (unpackOptions baud opts) = true)
    (h5 : configDivisor p i (unpackOptions baud opts) = some brr) :
    bindUart p i baud opts u = .bound (u.commitBind (unpackOptions baud opts) brr) := by
  simp [bindUart, h1, h2, h3, h4, h5]

end Sys2Proof.Machine
end

