-- ==== Sys2Proof/Laws/Agents.lean ====
section
/-! SUPPORT. What any one move can do to any one unit, said once: `agentStep_unit` lists every case, and the proofs about
whole-machine rules go through its cases instead of unfolding the agents. -/

namespace Sys2Proof.Machine

theorem State.setUart_self (s : State) (i : Unit6) : s.setUart i (s.uart i) = s := by
  have h : s.uarts.set i (s.uarts.get i) = s.uarts := by cases i <;> rfl
  simp [State.setUart, State.uart, h]

theorem PerUnit.set_set {α : Type} (v : PerUnit α) (i : Unit6) (x y : α) : (v.set i x).set i y = v.set i y := by
  cases i <;> rfl

theorem State.setUart_setUart (s : State) (i : Unit6) (u v : Uart) : (s.setUart i u).setUart i v = s.setUart i v := by
  simp [State.setUart, PerUnit.set_set]

/-- The phase after a kind is a scan or Idle, never a handler. -/
theorem nextPhase_plain (k : EventKind) :
    nextPhase k = .idle ∨ ∃ j, nextPhase k = .scan j := by
  cases k <;> simp [nextPhase, EventKind.succ]

/-! ### The channels' counters -/

theorem Chan.rxAdvance_descriptor (c : Chan) : c.rxAdvance.dir = c.dir ∧ c.rxAdvance.width = c.width ∧
    c.rxAdvance.src = c.src ∧ c.rxAdvance.dst = c.dst ∧ c.rxAdvance.len = c.len ∧ c.rxAdvance.circ = c.circ ∧
    c.rxAdvance.prio = c.prio := by
  unfold Chan.rxAdvance
  by_cases hc : c.circ = true
  · simp [hc]
  · simp only [hc, Bool.false_eq_true, if_false]; split <;> simp_all

theorem Chan.txAdvance_descriptor (c : Chan) : c.txAdvance.dir = c.dir ∧ c.txAdvance.width = c.width ∧
    c.txAdvance.src = c.src ∧ c.txAdvance.dst = c.dst ∧ c.txAdvance.len = c.len ∧ c.txAdvance.circ = c.circ ∧
    c.txAdvance.prio = c.prio := by
  simp only [Chan.txAdvance]
  split <;> simp_all

/-- A circular stream neither stops nor completes (R136). -/
theorem Chan.rxAdvance_circular {c : Chan} (h : c.circ = true) :
    c.rxAdvance.active = c.active ∧ c.rxAdvance.done = c.done := by
  simp [Chan.rxAdvance, h]

/-- A stream that moves a byte is still outstanding: active, or complete with the callback pending (R135). -/
theorem Chan.rxAdvance_outstanding {c : Chan} (h : c.active = true) : c.rxAdvance.outstanding = true := by
  unfold Chan.rxAdvance Chan.outstanding
  by_cases hc : c.circ = true
  · simp [hc, h]
  · simp only [hc, Bool.false_eq_true, if_false]; split <;> simp_all

/-! ### The receive service and the start of a stream -/

/-- What the receive service makes of a unit: nothing where it takes no byte; the waiting byte is taken (R133); or, at
an invalid address, the channel is stuck (R62, R238). -/
def Uart.Serviced (p : Params) (u v : Uart) : Prop :=
  (u.rxTakes = false ∧ v = u) ∨ (u.rxTakes = true ∧ v = u.takeRdr.setCh .rx u.ch.rx.rxAdvance) ∨
  (u.rxTakes = true ∧ ∃ f : BusFault, memValid p f.addr = false ∧ v = u.stickCh .rx f)

/-- The channel of a direction armed and triggered, before the receive service (R130, R131). -/
def Uart.started (u : Uart) (d : Dir) (dir : XferDir) (src dst : Endpoint) (len : Half) (circ : Bool)
    (prio : BitVec 2) : Uart :=
  u.setCh d { (u.ch.get d).arm dir src dst len circ prio with active := true }

theorem rxServiceStep_unit {i : Unit6} {s t : State} (h : rxServiceStep i s = .next t) :
    ∃ v m, (s.uart i).Serviced s.par v ∧ t = { s.setUart i v with mem := m } := by
  obtain ⟨u, m, hr, ht⟩ := rxServiceStep_next h
  refine ⟨u, m, ?_, ht⟩
  rcases rxService_ok hr with ⟨hg, rfl, _⟩ | ⟨hg, _, _, _, rfl⟩ | ⟨hg, _, _, hv, _, rfl⟩
  · exact .inl ⟨hg, rfl⟩
  · exact .inr (.inl ⟨hg, rfl⟩)
  · exact .inr (.inr ⟨hg, _, hv, rfl⟩)

/-- Arm and Trigger of the receive channel, one after the other, as RECV and FINIT take them (R122, R171). -/
theorem armTrigger_rx_next {i : Unit6} {dir : XferDir} {src dst : Endpoint} {len : Half} {circ : Bool}
    {prio : BitVec 2} {s t : State}
    (h : (armStep i .rx dir src dst len circ prio s).andThen (triggerStep i .rx) = .next t) :
    (s.uart i).ch.rx.outstanding = false ∧ ∃ v m,
      ((s.uart i).started .rx dir src dst len circ prio).Serviced s.par v ∧
      t = { (s.setUart i v).emit (.trigger i .rx) with mem := m } := by
  obtain ⟨s1, h1, h2⟩ := Out.andThen_eq_next h
  obtain ⟨ho, rfl⟩ := armStep_next h1
  obtain ⟨_, h3⟩ := triggerStep_rx_next h2
  obtain ⟨v, m, hv, rfl⟩ := rxServiceStep_unit h3
  refine ⟨by simpa using ho, v, m, ?_, ?_⟩
  · simpa [Uart.started, Uart.setCh, PerDir.set, State.setUart_setUart] using hv
  · simp [State.setUart, State.emit, PerUnit.set_set]

/-- Arm and Trigger of the transmit channel, one after the other, as SEND takes them (R121). -/
theorem armTrigger_tx_next {i : Unit6} {dir : XferDir} {src dst : Endpoint} {len : Half} {circ : Bool}
    {prio : BitVec 2} {s t : State}
    (h : (armStep i .tx dir src dst len circ prio s).andThen (triggerStep i .tx) = .next t) :
    (s.uart i).ch.tx.outstanding = false ∧
      t = (s.setUart i ((s.uart i).started .tx dir src dst len circ prio)).emit (.trigger i .tx) := by
  obtain ⟨s1, h1, h2⟩ := Out.andThen_eq_next h
  obtain ⟨ho, rfl⟩ := armStep_next h1
  obtain ⟨_, rfl⟩ := triggerStep_tx_next h2
  refine ⟨by simpa using ho, ?_⟩
  simp [State.setUart, State.emit, PerUnit.set_set, Uart.started, Uart.setCh, PerDir.set, State.uart]

/-! ### Every change a move can make to a unit -/

/-- FINIT's unit before its channel starts (R171). -/
def Uart.framed (u : Uart) (c : UartConfig) (brr : Half) : Uart :=
  ((u.commitBind c brr).setSlot .idle .frame).setSig .rx false

/-- What unit i can be after a move of state s: unchanged, or changed by one of the moves' own rules. -/
inductive UnitStep (s : State) (i : Unit6) : Move → Uart → Prop where
  | same (m : Move) : UnitStep s i m (s.uart i)
  | bind {w : Word} {n : BitVec 4} {c : UartConfig} {brr : Half} (hd : decode w = .legal (.init n))
      (hi : unitOf n = some i) (hc : (s.uart i).cfgv = false) :
      UnitStep s i (.hostCommand w) ((s.uart i).commitBind c brr)
  | slot {w : Word} {n sub : BitVec 4} {k : EventKind} (hd : decode w = .legal (.seth n sub))
      (hi : unitOf n = some i) (hk : kindOf sub = some k) :
      UnitStep s i (.hostCommand w) ((s.uart i).setSlot k (slotOfToken s.a.q0))
  | finit {w : Word} {c : UartConfig} {brr : Half} {v : Uart} (hd : decode w = .legal .finit)
      (hi : i = s.par.frameUnit) (hc : (s.uart i).cfgv = false) (ho : (s.uart i).ch.rx.outstanding = false)
      (hv : (((s.uart i).framed c brr).started .rx .periphToMem (.dr i) (.mem s.par.winBase) s.par.frameCap true
        s.par.prioRx).Serviced s.par v) : UnitStep s i (.hostCommand w) v
  | rddr {w : Word} {n : BitVec 4} (hd : decode w = .legal (.rddr n)) (hi : unitOf n = some i) :
      UnitStep s i (.hostCommand w) (s.uart i).takeRdr
  | wrdr {w : Word} {n : BitVec 4} {b : Byte} (hd : decode w = .legal (.wrdr n b)) (hi : unitOf n = some i) :
      UnitStep s i (.hostCommand w) ((s.uart i).writeTdr b)
  | hret {w : Word} {n : BitVec 4} {k : EventKind} (hd : decode w = .legal (.hret n)) (hi : unitOf n = some i)
      (hp : (s.uart i).dsp.phase = .inHandler k) : UnitStep s i (.hostCommand w) ((s.uart i).finish k)
  | fgWrite (b : Byte) (hp : s.fg.phase = .p1) : UnitStep s i .foreground ((s.uart i).writeTdr b)
  | fgTake (hp : s.fg.phase = .p2) : UnitStep s i .foreground (s.uart i).takeRdr
  | fgStartTx {len : Half} {buf : Word}
      (hop : s.fg.op = some (.send i len buf) ∨ (s.fg.op = some (.fsend len buf) ∧ i = s.par.frameUnit))
      (hp : s.fg.phase = .d1) (ho : (s.uart i).ch.tx.outstanding = false) : UnitStep s i .foreground
        ((s.uart i).started .tx .memToPeriph (.mem buf) (.dr i) len false s.par.prioTx)
  | fgStartRx {circ : Bool} {len : Half} {buf : Word} {v : Uart} (hop : s.fg.op = some (.recv i circ len buf))
      (hp : s.fg.phase = .d1) (ho : (s.uart i).ch.rx.outstanding = false)
      (hv : ((s.uart i).started .rx .periphToMem (.dr i) (.mem buf) len circ s.par.prioRx).Serviced s.par v) :
      UnitStep s i .foreground v
  | fgSigTx {len : Half} {buf : Word}
      (hop : s.fg.op = some (.send i len buf) ∨ (s.fg.op = some (.fsend len buf) ∧ i = s.par.frameUnit))
      (hp : s.fg.phase = .d3) : UnitStep s i .foreground ((s.uart i).setSig .tx false)
  | fgSigRx (hop : (∃ circ len buf, s.fg.op = some (.recv i circ len buf) ∧ s.fg.phase = .d3) ∨
      (i = s.par.frameUnit ∧ ∃ buf, s.fg.op = some (.frecv buf) ∧ s.fg.phase = .w2)) :
      UnitStep s i .foreground ((s.uart i).setSig .rx false)
  | enter (hp : (s.uart i).dsp.phase = .idle) (hq : (s.uart i).irq = true) :
      UnitStep s i (.dispatcher i) (s.uart i).dispatchEnter
  | advance {k : EventKind} (hp : (s.uart i).dsp.phase = .scan k) (hf : flag (s.uart i).dsp.snap k = false) :
      UnitStep s i (.dispatcher i) ((s.uart i).advance k)
  | finish {k : EventKind} (hp : (s.uart i).dsp.phase = .scan k) (hf : flag (s.uart i).dsp.snap k = true)
      (hs : (s.uart i).hslot.get k = .empty) : UnitStep s i (.dispatcher i) ((s.uart i).finish k)
  | framing {k : EventKind} (hp : (s.uart i).dsp.phase = .scan k) (hf : flag (s.uart i).dsp.snap k = true)
      (hs : (s.uart i).hslot.get k = .frame) :
      UnitStep s i (.dispatcher i) ((s.uart i).setPhase (.frame .f0))
  | handler {k : EventKind} {h : Word} (hp : (s.uart i).dsp.phase = .scan k)
      (hf : flag (s.uart i).dsp.snap k = true) (hs : (s.uart i).hslot.get k = .ext h) :
      UnitStep s i (.dispatcher i) ((s.uart i).setPhase (.inHandler k))
  | f0 (hp : (s.uart i).dsp.phase = .frame .f0) :
      UnitStep s i (.dispatcher i) ({ s.uart i with masked := true }.setPhase (.frame .f1))
  | f1 (hp : (s.uart i).dsp.phase = .frame .f1) : UnitStep s i (.dispatcher i)
      (((s.uart i).setCh .rx { (s.uart i).ch.rx with active := false }).setPhase (.frame .f2))
  | f2 (hp : (s.uart i).dsp.phase = .frame .f2) : UnitStep s i (.dispatcher i)
      { s.uart i with dsp := { (s.uart i).dsp with
        phase := .frame .f3, flen := capturedLength s.par.frameCap (s.uart i).ch.rx.cnt } }
  | f3 (hp : (s.uart i).dsp.phase = .frame .f3) : UnitStep s i (.dispatcher i)
      (((s.uart i).setCh .rx { (s.uart i).ch.rx with cnt := s.par.frameCap }).setPhase (.frame .f4))
  | f4 {v : Uart} (hp : (s.uart i).dsp.phase = .frame .f4)
      (hv : (((s.uart i).setCh .rx { (s.uart i).ch.rx with off := 0#16, active := true }).setPhase
        (.frame .f5)).Serviced s.par v) : UnitStep s i (.dispatcher i) v
  | f5 (hp : (s.uart i).dsp.phase = .frame .f5) : UnitStep s i (.dispatcher i)
      (({ s.uart i with masked := false }.setSig .rx true).finish .idle)
  | txMove (b : Byte) (hg : (s.uart i).txMoveEnabled = true) : UnitStep s i (.txMove i)
      (((s.uart i).writeTdr b).setCh .tx (s.uart i).ch.tx.txAdvance)
  | txStuck {f : BusFault} (hg : (s.uart i).txMoveEnabled = true) (hv : memValid s.par f.addr = false) :
      UnitStep s i (.txMove i) ((s.uart i).stickCh .tx f)
  | dmaDone {d : Dir} (hg : ((s.uart i).ch.get d).done = true) (hn : (s.uart i).chFault.get d = none) :
      UnitStep s i (.dmaDone i d)
      (((s.uart i).setCh d { (s.uart i).ch.get d with done := false }).setSig d true)
  | rxDropped {b : Byte} (hu : (s.uart i).usable = true) (hf : flag (s.uart i).sr .rxr = true) :
      UnitStep s i (.rxByte i b) { s.uart i with rxact := true }
  | rxLatched {b : Byte} {v : Uart} (hu : (s.uart i).usable = true) (hf : flag (s.uart i).sr .rxr = false)
      (hv : ({ s.uart i with rxact := true, rdr := b, sr := setFlag (s.uart i).sr .rxr } : Uart).Serviced s.par v) :
      UnitStep s i (.rxByte i b) v
  | idleEvent (hu : (s.uart i).usable = true) (hr : (s.uart i).rxact = true) :
      UnitStep s i (.idleEvent i) { (s.uart i).raiseFlag .idle with rxact := false }
  | txShift (hg : (s.uart i).txShiftEnabled = true) :
      UnitStep s i (.txShift i) (((s.uart i).raiseFlag .txe).raiseFlag .txc)
  | ctsEvent (hu : (s.uart i).usable = true) : UnitStep s i (.ctsEvent i) ((s.uart i).raiseFlag .cts)
  | breakEvent (hu : (s.uart i).usable = true) : UnitStep s i (.breakEvent i) ((s.uart i).raiseFlag .brk)
  | parityEvent (hu : (s.uart i).usable = true) : UnitStep s i (.parityEvent i) ((s.uart i).raiseFlag .pe)

/-- A unit that a change of another unit, or of none, leaves alone. -/
theorem UnitStep.of_setUart {s t : State} {i j : Unit6} {m : Move} {u : Uart}
    (ht : t.uarts = (s.setUart i u).uarts) (h : UnitStep s i m u) : UnitStep s j m (t.uart j) := by
  rw [State.uart_congr ht, State.uart_setUart]
  split
  · next hj => subst hj; exact h
  · exact .same m

theorem UnitStep.of_same {s t : State} {m : Move} (j : Unit6) (ht : t.uarts = s.uarts) :
    UnitStep s j m (t.uart j) := by
  rw [State.uart_congr ht]
  exact .same m

theorem sendStep_unit {s t : State} {name : OpName} {i : Unit6} {len : Half} {buf : Word} (j : Unit6)
    (hop : s.fg.op = some (.send i len buf) ∨ (s.fg.op = some (.fsend len buf) ∧ i = s.par.frameUnit))
    (h : sendStep name i len buf s = .next t) : UnitStep s j .foreground (t.uart j) := by
  simp only [sendStep] at h
  split at h
  case h_1 hp =>
    split at h
    · cases h; exact .of_same j rfl
    · cases h; exact .of_setUart rfl (.fgWrite _ hp)
  case h_2 => split at h <;> cases h <;> exact .of_same j rfl
  case h_3 => split at h <;> cases h <;> exact .of_same j rfl
  case h_4 hp =>
    obtain ⟨s1, h1, h2⟩ := Out.andThen_eq_next h
    obtain ⟨ho, rfl⟩ := armTrigger_tx_next h1
    cases h2
    exact .of_setUart rfl (.fgStartTx hop hp ho)
  case h_5 => split at h <;> cases h <;> exact .of_same j rfl
  case h_6 hp => cases h; exact .of_setUart rfl (.fgSigTx hop hp)
  all_goals cases h

theorem recvStep_unit {s t : State} {i : Unit6} {circ : Bool} {len : Half} {buf : Word} (j : Unit6)
    (hop : s.fg.op = some (.recv i circ len buf)) (h : recvStep i circ len buf s = .next t) :
    UnitStep s j .foreground (t.uart j) := by
  simp only [recvStep] at h
  split at h
  case h_1 => split at h <;> cases h <;> exact .of_same j rfl
  case h_2 hp =>
    split at h
    · cases h; exact .of_same j rfl
    · split at h <;> cases h <;> exact .of_setUart rfl (.fgTake hp)
  case h_3 hp =>
    obtain ⟨s1, h1, h2⟩ := Out.andThen_eq_next h
    obtain ⟨ho, v, m, hv, rfl⟩ := armTrigger_rx_next h1
    split at h2 <;> cases h2 <;> exact .of_setUart rfl (.fgStartRx hop hp ho hv)
  case h_4 => split at h <;> cases h <;> exact .of_same j rfl
  case h_5 hp => cases h; exact .of_setUart rfl (.fgSigRx (.inl ⟨_, _, _, hop, hp⟩))
  all_goals cases h

theorem frecvStep_unit {s t : State} {buf : Word} (j : Unit6) (hop : s.fg.op = some (.frecv buf))
    (h : frecvStep buf s = .next t) : UnitStep s j .foreground (t.uart j) := by
  simp only [frecvStep] at h
  split at h
  case h_1 => split at h <;> cases h <;> exact .of_same j rfl
  case h_2 hp => split at h <;> cases h <;> exact .of_setUart rfl (.fgSigRx (.inr ⟨rfl, _, hop, hp⟩))
  case h_3 =>
    split at h
    · cases h; exact .of_same j rfl
    · split at h
      · cases h; exact .of_same j rfl
      · split at h <;> cases h <;> exact .of_same j rfl
  case h_4 => cases h; exact .of_same j rfl
  all_goals cases h

theorem foregroundStep_unit {s t : State} (j : Unit6) (h : foregroundStep s = .next t) :
    UnitStep s j .foreground (t.uart j) := by
  unfold foregroundStep at h
  split at h
  case isFalse => cases h
  split at h
  case h_1 => cases h
  case h_2 hop => exact sendStep_unit j (.inl hop) h
  case h_3 hop => exact recvStep_unit j hop h
  case h_4 hop =>
    simp only [sendbStep] at h
    split at h
    case h_1 hp => cases h; exact .of_setUart rfl (.fgWrite _ hp)
    case h_2 => split at h <;> cases h <;> exact .of_same j rfl
    case h_3 => cases h; exact .of_same j rfl
    all_goals cases h
  case h_5 hop =>
    simp only [recvbStep] at h
    split at h
    case h_1 => split at h <;> cases h <;> exact .of_same j rfl
    case h_2 hp => cases h; exact .of_setUart rfl (.fgTake hp)
    all_goals cases h
  case h_6 hop => exact sendStep_unit j (.inr ⟨hop, rfl⟩) h
  case h_7 hop => exact frecvStep_unit j hop h

theorem dispatcherStep_unit {s t : State} {i : Unit6} (j : Unit6) (h : dispatcherStep i s = .next t) :
    UnitStep s j (.dispatcher i) (t.uart j) := by
  simp only [dispatcherStep] at h
  split at h
  case h_1 hp =>
    split at h
    · next hq => cases h; exact .of_setUart rfl (.enter hp hq)
    · cases h
  case h_2 k hp =>
    simp only [scanStep] at h
    split at h
    · next hf => cases h; exact .of_setUart rfl (.advance hp (by simpa using hf))
    · next hf =>
      have hf' : flag (s.uart i).dsp.snap k = true := by simpa using hf
      split at h
      · next hs => cases h; exact .of_setUart rfl (.finish hp hf' hs)
      · next hs => cases h; exact .of_setUart rfl (.framing hp hf' hs)
      · next x hs => cases h; exact .of_setUart rfl (.handler hp hf' hs)
  case h_3 => cases h
  case h_4 f hp =>
    cases f <;> simp only [frameStep] at h
    case f4 =>
      obtain ⟨v, m, hv, rfl⟩ := rxServiceStep_unit h
      simp only [State.uart_setUart_same] at hv
      exact .of_setUart (u := v) (by simp [PerUnit.set_set]) (.f4 hp hv)
    all_goals cases h
    case f0 => exact .of_setUart rfl (.f0 hp)
    case f1 => exact .of_setUart rfl (.f1 hp)
    case f2 => exact .of_setUart rfl (.f2 hp)
    case f3 => exact .of_setUart rfl (.f3 hp)
    case f5 => exact .of_setUart rfl (.f5 hp)

theorem sendStart_uarts {name : OpName} {op : FgOp} {i : Unit6} {len : Half} {s t : State}
    (h : sendStart name op i len s = .next t) : t.uarts = s.uarts := by
  simp only [sendStart] at h
  split at h
  · cases h; rfl
  split at h
  · cases h; rfl
  split at h <;> cases h <;> rfl

/-- A presented operation changes a unit only as a registry operation, FINIT or HRET does. -/
theorem exec_unit {s t : State} {w : Word} {i : Instr} (j : Unit6) (hd : decode w = .legal i)
    (h : exec i { s with cmd := w } = .next t) : UnitStep s j (.hostCommand w) (t.uart j) := by
  cases i with
  | init n =>
    simp only [exec, execInit] at h
    obtain ⟨_, h⟩ := acceptForeground_next h
    split at h
    · cases h; exact .of_same j rfl
    · next k hk =>
      split at h
      · cases h
      · cases h; exact .of_same j rfl
      · next u hb =>
        cases h
        obtain ⟨hc, _, _, _, brr, _, rfl⟩ := bindUart_bound hb
        exact .of_setUart rfl (.bind hd hk hc)
  | send n len =>
    simp only [exec, execSend] at h
    obtain ⟨_, h⟩ := acceptForeground_next h
    split at h
    · cases h; exact .of_same j rfl
    · exact .of_same j (by rw [sendStart_uarts h])
  | recv n circ len =>
    simp only [exec, execRecv] at h
    obtain ⟨_, h⟩ := acceptForeground_next h
    split at h
    · cases h; exact .of_same j rfl
    · simp only [recvStart] at h
      split at h
      · cases h; exact .of_same j rfl
      split at h
      · cases h; exact .of_same j rfl
      split at h <;> cases h <;> exact .of_same j rfl
  | sendb n b =>
    simp only [exec, execSendb] at h
    obtain ⟨_, h⟩ := acceptForeground_next h
    split at h
    · cases h; exact .of_same j rfl
    · split at h <;> cases h <;> exact .of_same j rfl
  | recvb n =>
    simp only [exec, execRecvb] at h
    obtain ⟨_, h⟩ := acceptForeground_next h
    split at h
    · cases h; exact .of_same j rfl
    · split at h <;> cases h <;> exact .of_same j rfl
  | seth n sub =>
    simp only [exec, execSeth] at h
    split at h
    · obtain ⟨_, rfl⟩ := illegalCommand_next h; exact .of_same j rfl
    · next k hk =>
      obtain ⟨_, h⟩ := acceptForeground_next h
      split at h
      · cases h; exact .of_same j rfl
      · next hi => cases h; exact .of_setUart rfl (.slot hd hi hk)
  | finit =>
    simp only [exec, execFinit] at h
    obtain ⟨_, h⟩ := acceptForeground_next h
    split at h
    · cases h
    · cases h; exact .of_same j rfl
    · next u hb =>
      obtain ⟨hc, _, _, _, brr, _, rfl⟩ := bindUart_bound hb
      obtain ⟨s2, h1, h2⟩ := Out.andThen_eq_next h
      cases h2
      obtain ⟨ho, v, m, hv, rfl⟩ := armTrigger_rx_next h1
      have hu : ∀ (f : FrameRec) (x : Uart), State.uart { (State.setUart { s with cmd := w } s.par.frameUnit x) with
          frame := f } s.par.frameUnit = x := fun f x => State.uart_setUart_same _ _ _
      simp only [hu] at hv ho
      exact .of_setUart (u := v) (by simp [PerUnit.set_set]) (.finit hd rfl hc ho hv)
  | fsend len =>
    simp only [exec, execFsend] at h
    obtain ⟨_, h⟩ := acceptForeground_next h
    exact .of_same j (by rw [sendStart_uarts h])
  | frecv =>
    simp only [exec, execFrecv] at h
    obtain ⟨_, h⟩ := acceptForeground_next h
    split at h <;> cases h <;> exact .of_same j rfl
  | solveb =>
    simp only [exec, execSolveb] at h
    obtain ⟨_, h⟩ := acceptForeground_next h
    cases h; exact .of_same j rfl
  | solvet =>
    simp only [exec, execSolvet] at h
    obtain ⟨_, h⟩ := acceptForeground_next h
    cases h; exact .of_same j rfl
  | rdsr n =>
    simp only [exec, execRdsr] at h
    obtain ⟨_, h⟩ := acceptAny_next h
    split at h <;> cases h <;> exact .of_same j rfl
  | rddr n =>
    simp only [exec, execRddr] at h
    obtain ⟨_, h⟩ := acceptAny_next h
    split at h
    · cases h; exact .of_same j rfl
    · next hi => cases h; exact .of_setUart rfl (.rddr hd hi)
  | wrdr n b =>
    simp only [exec, execWrdr] at h
    obtain ⟨_, h⟩ := acceptAny_next h
    split at h
    · cases h; exact .of_same j rfl
    · next hi => cases h; exact .of_setUart rfl (.wrdr hd hi)
  | hret n =>
    simp only [exec, execHret] at h
    obtain ⟨_, h⟩ := acceptAny_next h
    split at h
    · cases h; exact .of_same j rfl
    · next hi =>
      split at h
      · next hp => cases h; exact .of_setUart rfl (.hret hd hi hp)
      all_goals cases h; exact .of_same j rfl

/-- Every change a move of any agent can make to unit j is one of `UnitStep`'s cases. -/
theorem agentStep_unit {s t : State} {m : Move} (j : Unit6) (h : agentStep m s = .next t) :
    UnitStep s j m (t.uart j) := by
  cases m with
  | hostOperand n v =>
    simp only [agentStep, hostOperandStep] at h
    split at h <;> cases h
    exact .of_same j rfl
  | hostStore a b =>
    simp only [agentStep, hostStoreStep] at h
    split at h
    · split at h <;> cases h
      · exact .of_same j (by simp)
      · exact .of_same j rfl
    · cases h
  | hostCommand w =>
    simp only [agentStep, presentCommand] at h
    split at h
    · next hd => exact exec_unit j hd h
    · obtain ⟨_, rfl⟩ := illegalCommand_next h; exact .of_same j rfl
  | foreground => exact foregroundStep_unit j h
  | dispatcher i => exact dispatcherStep_unit j h
  | txMove i =>
    simp only [agentStep, txMoveStep] at h
    split at h
    · next hg =>
      split at h
      · cases h
      · split at h
        · next hr =>
          obtain ⟨hv, rfl⟩ := memRead_error hr
          cases h; exact .of_setUart rfl (.txStuck hg hv)
        · cases h; exact .of_setUart rfl (.txMove _ hg)
    · cases h
  | dmaDone i d =>
    simp only [agentStep, dmaDoneStep] at h
    split at h
    · next hg =>
      rw [Bool.and_eq_true, Bool.not_eq_true', Uart.chStuck_eq_false] at hg
      cases h; exact .of_setUart rfl (.dmaDone hg.1 hg.2)
    · cases h
  | rxByte i b =>
    simp only [agentStep, rxByteStep] at h
    split at h
    · cases h
    · next hu =>
      have hu' : (s.uart i).usable = true := by simpa using hu
      split at h
      · next hf => cases h; exact .of_setUart rfl (.rxDropped hu' hf)
      · next hf =>
        obtain ⟨v, m, hv, rfl⟩ := rxServiceStep_unit h
        simp only [State.uart_setUart_same] at hv
        exact .of_setUart (u := v) (by simp [PerUnit.set_set]) (.rxLatched hu' (by simpa using hf) hv)
  | idleEvent i =>
    simp only [agentStep, idleEventStep] at h
    split at h
    · next hg =>
      rw [Bool.and_eq_true] at hg
      cases h; exact .of_setUart rfl (.idleEvent hg.1 hg.2)
    · cases h
  | txShift i =>
    simp only [agentStep, txShiftStep] at h
    split at h
    · next hg => cases h; exact .of_setUart rfl (.txShift hg)
    · cases h
  | ctsEvent i =>
    simp only [agentStep, ctsEventStep] at h
    split at h
    · next hu => cases h; exact .of_setUart rfl (.ctsEvent hu)
    · cases h
  | breakEvent i =>
    simp only [agentStep, breakEventStep] at h
    split at h
    · next hu => cases h; exact .of_setUart rfl (.breakEvent hu)
    · cases h
  | parityEvent i =>
    simp only [agentStep, parityEventStep] at h
    split at h
    · next hu => cases h; exact .of_setUart rfl (.parityEvent hu)
    · cases h

end Sys2Proof.Machine
end

