-- ==== Sys2Proof/Laws/Decode.lean ====
section
/-! SUPPORT. The fields of a command word put together by `cmd32`, and the match of such a word against a row of the
opcode table, field by field (R77, R84). -/

namespace Sys2Proof

variable (op : BitVec 8) (unit sub : BitVec 4) (imm : BitVec 16)

/-- One bit of a command word is one bit of one of its fields. -/
theorem cmd32_getLsbD (i : Nat) : (cmd32 op unit sub imm).getLsbD i =
    if i < 16 then imm.getLsbD i else if i < 20 then sub.getLsbD (i - 16) else if i < 24 then unit.getLsbD (i - 20)
    else op.getLsbD (i - 24) := by
  change BitVec.getLsbD (w := 8 + 4 + 4 + 16) (op ++ unit ++ sub ++ imm) i = _
  simp only [BitVec.getLsbD_append, Nat.sub_sub]
  grind

@[simp] theorem fieldOp_cmd32 : fieldOp (cmd32 op unit sub imm) = op := by
  apply BitVec.eq_of_getLsbD_eq
  intro i hi
  simp only [fieldOp, BitVec.getLsbD_extractLsb', cmd32_getLsbD]
  grind

@[simp] theorem fieldInst_cmd32 : fieldInst (cmd32 op unit sub imm) = unit := by
  apply BitVec.eq_of_getLsbD_eq
  intro i hi
  simp only [fieldInst, BitVec.getLsbD_extractLsb', cmd32_getLsbD]
  grind

@[simp] theorem fieldSub_cmd32 : fieldSub (cmd32 op unit sub imm) = sub := by
  apply BitVec.eq_of_getLsbD_eq
  intro i hi
  simp only [fieldSub, BitVec.getLsbD_extractLsb', cmd32_getLsbD]
  grind

@[simp] theorem fieldImm_cmd32 : fieldImm (cmd32 op unit sub imm) = imm := by
  apply BitVec.eq_of_getLsbD_eq
  intro i hi
  simp only [fieldImm, BitVec.getLsbD_extractLsb', cmd32_getLsbD]
  grind

@[simp] theorem fieldValue_cmd32 (v : BitVec 8) : fieldValue (cmd32 op unit sub (0#8 ++ v)) = v := by
  apply BitVec.eq_of_getLsbD_eq
  intro i hi
  simp only [fieldValue, BitVec.getLsbD_extractLsb', cmd32_getLsbD]
  have h : BitVec.getLsbD (w := 8 + 8) (0#8 ++ v) (0 + i) = v.getLsbD i := by
    rw [BitVec.getLsbD_append]; simp [hi]
  grind

/-- A word is its four fields put together. -/
theorem cmd32_fields (w : Word) : cmd32 (fieldOp w) (fieldInst w) (fieldSub w) (fieldImm w) = w := by
  apply BitVec.eq_of_getLsbD_eq
  intro i hi
  simp only [cmd32_getLsbD, fieldOp, fieldInst, fieldSub, fieldImm, BitVec.getLsbD_extractLsb']
  grind

/-- A mask applies to each field by itself. -/
theorem cmd32_and (mop : BitVec 8) (munit msub : BitVec 4) (mimm : BitVec 16) :
    cmd32 op unit sub imm &&& cmd32 mop munit msub mimm =
      cmd32 (op &&& mop) (unit &&& munit) (sub &&& msub) (imm &&& mimm) := by
  apply BitVec.eq_of_getLsbD_eq
  intro i hi
  simp only [BitVec.getLsbD_and, cmd32_getLsbD]
  grind

/-- Two words are the same exactly when their four fields are. -/
theorem cmd32_inj (op' : BitVec 8) (unit' sub' : BitVec 4) (imm' : BitVec 16) :
    cmd32 op unit sub imm = cmd32 op' unit' sub' imm' ↔ op = op' ∧ unit = unit' ∧ sub = sub' ∧ imm = imm' := by
  constructor
  · intro h
    exact ⟨by simpa using congrArg fieldOp h, by simpa using congrArg fieldInst h,
      by simpa using congrArg fieldSub h, by simpa using congrArg fieldImm h⟩
  · rintro ⟨rfl, rfl, rfl, rfl⟩
    rfl

/-- A row selects a word exactly when each field of the word, masked, is the field of the pattern (R84). -/
theorem Row.selects_fields (pop mop : BitVec 8) (punit psub munit msub : BitVec 4) (pimm mimm : BitVec 16) :
    Row.selects ⟨cmd32 pop punit psub pimm, cmd32 mop munit msub mimm⟩ (cmd32 op unit sub imm) = true ↔
      op &&& mop = pop ∧ unit &&& munit = punit ∧ sub &&& msub = psub ∧ imm &&& mimm = pimm := by
  simp [Row.selects, cmd32_and, cmd32_inj]

/-- A byte in the low half of IMM leaves the high half clear. -/
theorem byte_high (v : Byte) : 0#8 ++ v &&& 0xFF00#16 = 0#16 := by
  apply BitVec.eq_of_getLsbD_eq
  intro i hi
  rw [BitVec.getLsbD_and]
  have h : BitVec.getLsbD (w := 8 + 8) (0#8 ++ v) i = (decide (i < 8) && v.getLsbD i) := by
    rw [BitVec.getLsbD_append]; by_cases hv : i < 8 <;> simp [hv]
  rw [h]
  match i with
  | 0 | 1 | 2 | 3 | 4 | 5 | 6 | 7 => simp
  | n + 8 => simp [show ¬ n + 8 < 8 by omega]

end Sys2Proof
end

