-- ==== Sys2Proof/Laws/PerInstr.lean ====
section
/-! SUPPORT. One lemma a constructor of Instr: the encoded word has the fixed bits of the operation's own row of the opcode
table, whatever the operands (R84). -/

namespace Sys2Proof.Laws.RowMatch

/-- The encoded word matches the row of its operation. -/
def Statement : Instr → Prop := fun i => i.row.selects (encode i) = true

theorem init (u : BitVec 4) : Statement (.init u) :=
  (Row.selects_fields _ _ _ _ 0x01#8 0xFF#8 0#4 0#4 0#4 0xF#4 0#16 0xFFFF#16).mpr (by simp)

theorem send (u : BitVec 4) (len : Half) : Statement (.send u len) :=
  (Row.selects_fields _ _ _ _ 0x02#8 0xFF#8 0#4 0#4 0#4 0xF#4 0#16 0#16).mpr (by simp)

theorem recv (u : BitVec 4) (circ : Bool) (len : Half) : Statement (.recv u circ len) :=
  (Row.selects_fields _ _ _ _ 0x03#8 0xFF#8 0#4 0#4 0#4 0xE#4 0#16 0#16).mpr (by cases circ <;> simp)

theorem sendb (u : BitVec 4) (v : Byte) : Statement (.sendb u v) :=
  (Row.selects_fields _ _ _ _ 0x04#8 0xFF#8 0#4 0#4 0#4 0xF#4 0#16 0xFF00#16).mpr
    (by simp [byte_high])

theorem recvb (u : BitVec 4) : Statement (.recvb u) :=
  (Row.selects_fields _ _ _ _ 0x05#8 0xFF#8 0#4 0#4 0#4 0xF#4 0#16 0xFFFF#16).mpr (by simp)

theorem seth (u sub : BitVec 4) : Statement (.seth u sub) :=
  (Row.selects_fields _ _ _ _ 0x06#8 0xFF#8 0#4 0#4 0#4 0#4 0#16 0xFFFF#16).mpr (by simp)

theorem finit : Statement .finit := by rfl

theorem fsend (len : Half) : Statement (.fsend len) :=
  (Row.selects_fields _ _ _ _ 0x09#8 0xFF#8 0#4 0#4 0xF#4 0xF#4 0#16 0#16).mpr (by simp)

theorem frecv : Statement .frecv := by rfl

theorem solveb : Statement .solveb := by rfl

theorem solvet : Statement .solvet := by rfl

theorem rdsr (u : BitVec 4) : Statement (.rdsr u) :=
  (Row.selects_fields _ _ _ _ 0x20#8 0xFF#8 0#4 0#4 0#4 0xF#4 0#16 0xFFFF#16).mpr (by simp)

theorem rddr (u : BitVec 4) : Statement (.rddr u) :=
  (Row.selects_fields _ _ _ _ 0x21#8 0xFF#8 0#4 0#4 0#4 0xF#4 0#16 0xFFFF#16).mpr (by simp)

theorem wrdr (u : BitVec 4) (v : Byte) : Statement (.wrdr u v) :=
  (Row.selects_fields _ _ _ _ 0x22#8 0xFF#8 0#4 0#4 0#4 0xF#4 0#16 0xFF00#16).mpr
    (by simp [byte_high])

theorem hret (u : BitVec 4) : Statement (.hret u) :=
  (Row.selects_fields _ _ _ _ 0x2F#8 0xFF#8 0#4 0#4 0#4 0xF#4 0#16 0xFFFF#16).mpr (by simp)

end Sys2Proof.Laws.RowMatch
end

