-- ==== Sys2Proof/Tests/Slice0.lean ====
section
/-! SUPPORT. Tests: command words written out from R84 and R95, single steps whose expected values are the spec's own
examples, and, for every statement of Certificates/Slice0/Obligations.lean, a concrete state and operands that meet its
hypotheses. -/

namespace Sys2Proof.Tests

open Sys2Proof Sys2Proof.Machine

/-! ### Helpers -/

/-- The next state of a step that has one. -/
def after (o : Out) : Option State :=
  match o with
  | .next s => some s
  | .fault _ => none
  | .refused _ => none

/-- The reason of a step that is refused. -/
def why (o : Out) : Option Refusal :=
  match o with
  | .next _ => none
  | .fault _ => none
  | .refused r => some r

/-- A bound unit: asynchronous, one stop bit, the given interrupt and DMA enables, the start status. -/
def bound (ie : BitVec 8) (dma : BitVec 2) : Uart :=
  { Uart.reset with
    cfgv := true
    cfg := ⟨9600#32, .async, .none, .one, ie, dma⟩
    brr := 0x1117#16
    sr := 0b0001100#7 }

/-- Reset with unit 1 replaced and the operands A[0] and A[1] set. -/
def unit1 (u : Uart) (a0 a1 : Word) : State :=
  { State.reset.setUart .u1 u with a := ⟨a0, a1, 0#32, 0#32⟩ }

/-- The same with an operation in progress at a label. -/
def running (u : Uart) (op : FgOp) (phase : FgPhase) : State :=
  { unit1 u 0#32 0#32 with fg := ⟨some op, phase, 0#16, 0#16⟩ }

/-- Unit 1 with its dispatcher in a phase, all seven flags in the snapshot and the status. -/
def inPhase (phase : DspPhase) : Uart :=
  { bound 0x7F#8 0#2 with sr := 0x7F#7, dsp := ⟨phase, 0x7F#7, 0#16⟩ }

/-- A receive channel armed for a buffer at 0x200 and running. -/
def rxRunning (len : Half) (circ : Bool) : Chan :=
  ⟨.periphToMem, 0#2, .dr .u1, .mem 0x200#32, len, circ, 0#2, len, 0#16, true, false⟩

/-- A transmit channel armed for a buffer at 0x100 and running. -/
def txRunning (len : Half) : Chan :=
  ⟨.memToPeriph, 0#2, .mem 0x100#32, .dr .u1, len, false, 0#2, len, 0#16, true, false⟩

/-- The state after FINIT with 115200 baud from reset (R171's example). -/
def framed : State :=
  (after (exec .finit { State.reset with a := ⟨115200#32, 0#32, 0#32, 0#32⟩ })).getD State.reset

/-- The same with a frame of a length captured and signalled. -/
def captured (len : Half) : State :=
  { framed.setUart .u2 ((framed.uart .u2).setSig .rx true) with
    frame := ⟨true, .frameCaptured, len⟩, a := ⟨0x20001000#32, 0#32, 0#32, 0#32⟩ }

/-- Parameters that leave the address 0x100 unbacked. -/
def holed : Params := { Params.default with unbacked := [(0x100, 0x101)] }

/-- `running` under these parameters. -/
def holedRun (u : Uart) (op : FgOp) (phase : FgPhase) : State := { running u op phase with par := holed }

/-! ### Well-formed terms -/

theorem test_wf_seth_kind6 : (Instr.seth 1#4 6#4).wf = true := by decide
theorem test_wf_seth_kind7_refused : (Instr.seth 1#4 7#4).wf = false := by decide
theorem test_wf_seth_kind15_refused : (Instr.seth 1#4 15#4).wf = false := by decide

/-! ### Decoding: words written out as OP ++ INST ++ SUB ++ IMM from R95 -/

theorem test_decode_init : decode (0x01#8 ++ 6#4 ++ 0#4 ++ 0#16) = .legal (.init 6#4) := by decide
theorem test_decode_send : decode (0x02#8 ++ 3#4 ++ 0#4 ++ 0xFFFF#16) = .legal (.send 3#4 0xFFFF#16) := by decide
theorem test_decode_recv : decode (0x03#8 ++ 3#4 ++ 0#4 ++ 2#16) = .legal (.recv 3#4 false 2#16) := by decide
theorem test_decode_recv_circ : decode (0x03#8 ++ 3#4 ++ 1#4 ++ 2#16) = .legal (.recv 3#4 true 2#16) := by decide
theorem test_decode_sendb : decode (0x04#8 ++ 1#4 ++ 0#4 ++ 0x00#8 ++ 0x41#8) = .legal (.sendb 1#4 0x41#8) := by decide
theorem test_decode_recvb : decode (0x05#8 ++ 1#4 ++ 0#4 ++ 0#16) = .legal (.recvb 1#4) := by decide
theorem test_decode_seth : decode (0x06#8 ++ 3#4 ++ 4#4 ++ 0#16) = .legal (.seth 3#4 4#4) := by decide
theorem test_decode_finit : decode 0x08000000#32 = .legal .finit := by decide
theorem test_decode_fsend : decode (0x09#8 ++ 0#4 ++ 0#4 ++ 5#16) = .legal (.fsend 5#16) := by decide
theorem test_decode_frecv : decode 0x0A000000#32 = .legal .frecv := by decide
theorem test_decode_solveb : decode 0x10000000#32 = .legal .solveb := by decide
theorem test_decode_solvet : decode 0x11000000#32 = .legal .solvet := by decide
theorem test_decode_rdsr : decode (0x20#8 ++ 1#4 ++ 0#4 ++ 0#16) = .legal (.rdsr 1#4) := by decide
theorem test_decode_rddr : decode (0x21#8 ++ 1#4 ++ 0#4 ++ 0#16) = .legal (.rddr 1#4) := by decide
theorem test_decode_wrdr : decode (0x22#8 ++ 1#4 ++ 0#4 ++ 0x00#8 ++ 0x0D#8) = .legal (.wrdr 1#4 0x0D#8) := by decide
theorem test_decode_hret : decode (0x2F#8 ++ 3#4 ++ 0#4 ++ 0#16) = .legal (.hret 3#4) := by decide

/-- R90: an OP outside the fifteen, a must-be-zero bit set, and SETH with SUB 7. -/
theorem test_decode_illegal :
    decode 0x07000000#32 = .illegal .unknownOp ∧ decode 0x00000000#32 = .illegal .unknownOp ∧
    decode 0x01000001#32 = .illegal .mustBeZero ∧ decode 0x03020000#32 = .illegal .mustBeZero ∧
    decode 0x04000100#32 = .illegal .mustBeZero ∧ decode 0x08100000#32 = .illegal .mustBeZero ∧
    decode 0x06070000#32 = .illegal .badKind := by decide

theorem test_decodeTableWord : decodeTableWord 32 0x06340000 = some (.seth 3#4 4#4) ∧
    decodeTableWord 32 0x07000000 = none := by decide

/-- A step from reset with a fetch word runs that word: `RDSR u1` reads the reset status 0. -/
theorem test_step_fetchWord :
    (after (step (State.reset.withFetchWord 32 0x20100000))).map (fun t => (t.cmd, t.trace)) =
      some (0x20100000#32, [.ret .rdsr ⟨0#32, 0#32, 0#32, 0#32⟩]) := by decide

/-! ### One step of each operation -/

/-- R151's example: `INIT u1, baud=9600, opts=0x20` with a clock of 42 MHz. -/
theorem test_init :
    (after (exec (.init 1#4) (unit1 Uart.reset 9600#32 0x20#32))).map
      (fun t => ((t.uart .u1).brr, (t.uart .u1).sr, (t.uart .u1).cfgv, t.r.q0)) =
      some (0x1117#16, 0b0001100#7, true, 0#32) := by decide

/-- R151, R152: `A[1][31:17]` not zero. -/
theorem test_init_reserved :
    (after (exec (.init 1#4) (unit1 Uart.reset 9600#32 0x00020020#32))).map
      (fun t => ((t.uart .u1).cfgv, t.r.q0)) = some (false, 0xFFFFFFFF#32) := by decide

/-- R121: one byte takes the polled path although transmit DMA is enabled. -/
theorem test_send_one :
    (after (exec (.send 1#4 1#16) (unit1 (bound 0#8 3#2) 0x100#32 0#32))).map (fun t => t.fg) =
      some ⟨some (.send .u1 1#16 0x100#32), .p1, 0#16, 0#16⟩ := by decide

/-- R121, label P1, its example: the byte 0x55 at 0x100 goes to the data register, txe and txc are cleared. -/
theorem test_send_p1 :
    (after (agentStep .foreground
      { running (bound 0#8 0#2) (.send .u1 1#16 0x100#32) .p1 with mem := [(0x100, 0x55#8)] })).map
      (fun t => ((t.uart .u1).tdr, (t.uart .u1).sr, t.fg.phase)) = some (0x55#8, 0#7, .p2) := by decide

/-- R122, R131: a byte already waiting when the stream is triggered is taken as byte 0. -/
theorem test_recv_d1_waiting :
    (after (agentStep .foreground (running { bound 0#8 1#2 with sr := 0b0011100#7, rdr := 0x10#8 }
      (.recv .u1 false 2#16 0x200#32) .d1))).map
      (fun t => (t.mem, (t.uart .u1).sr, (t.uart .u1).ch.rx.cnt, (t.uart .u1).ch.rx.off)) =
      some ([(0x200, 0x10#8)], 0b0001100#7, 1#16, 1#16) := by decide

/-- R122: a circular RECV returns 0 right after the trigger, its stream left running. -/
theorem test_recv_circ :
    (after (agentStep .foreground (running (bound 0#8 1#2) (.recv .u1 true 2#16 0x200#32) .d1))).map
      (fun t => (t.fg.op, (t.uart .u1).ch.rx.active, t.trace)) =
      some (none, true, [.trigger .u1 .rx, .ret .recv ⟨0#32, 0#32, 0#32, 0#32⟩]) := by decide

/-- R123: the value of the command word goes to the data register. -/
theorem test_sendb_p1 :
    (after (agentStep .foreground (running (bound 0#8 0#2) (.sendb .u1 0x41#8) .p1))).map
      (fun t => ((t.uart .u1).tdr, (t.uart .u1).sr)) = some (0x41#8, 0#7) := by decide

/-- R124's example: the byte 0x7F, zero-extended, and rxr cleared. -/
theorem test_recvb_p2 :
    (after (agentStep .foreground (running { bound 0#8 0#2 with sr := 0b0011100#7, rdr := 0x7F#8 }
      (.recvb .u1) .p2))).map (fun t => (t.r.q0, (t.uart .u1).sr)) = some (0x0000007F#32, 0b0001100#7) := by decide

/-- R153's example: `SETH u3, rxr, h=0x08001234`. -/
theorem test_seth :
    (after (exec (.seth 3#4 4#4) (unit1 Uart.reset 0x08001234#32 0#32))).map (fun t => (t.uart .u3).hslot.rxr) =
      some (.ext 0x08001234#32) := by decide

/-- R171's example: FINIT with 115200 baud, C = 300. -/
theorem test_finit :
    ((framed.uart .u2).brr, (framed.uart .u2).cfg.ie, (framed.uart .u2).hslot.idle, (framed.uart .u2).ch.rx) =
      (0x016D#16, 0x10#8, .frame,
        ⟨.periphToMem, 0#2, .dr .u2, .mem 0x20000000#32, 300#16, true, 0#2, 300#16, 0#16, true, false⟩) := by decide

theorem test_finit_frame :
    (framed.frame, framed.r.q0, framed.trace) =
      (⟨true, .armed, 0#16⟩, 0#32, [.trigger .u2 .rx, .ret .finit ⟨0#32, 0#32, 0#32, 0#32⟩]) := by decide

/-- R172: two bytes take the DMA path of the framing unit, which FINIT has enabled. -/
theorem test_fsend :
    (after (exec (.fsend 2#16) framed)).map (fun t => (t.fg.op, t.fg.phase)) =
      some (some (.fsend 2#16 115200#32), .d1) := by decide

/-- R173: FRECV before FINIT. -/
theorem test_frecv_before_finit : (after (exec .frecv State.reset)).map (fun t => t.r.q0) = some 0xFFFFFFFF#32 := by
  decide

/-- R173, R187, label W2: a length of 1 is a ShortFrame. -/
theorem test_frecv_short :
    (after (agentStep .foreground
      { captured 1#16 with fg := ⟨some (.frecv 0x20001000#32), .w2, 0#16, 0#16⟩ })).map
      (fun t => (t.r.q0, t.frame.state, (t.uart .u2).sig.rx, t.fg.op)) =
      some (0xFFFFFFFF#32, .armed, false, none) := by decide

/-- R101's example. -/
theorem test_solveb :
    (after (exec .solveb (unit1 Uart.reset 16000000#32 115200#32))).map (fun t => t.r) =
      some ⟨8#32, 11#32, 115107#32, 800#32⟩ := by decide

/-- R102's example: the source's scenario, exact at the coarse divisor 3. -/
theorem test_solvet :
    (after (exec .solvet (unit1 Uart.reset 168000000#32 1000#32))).map (fun t => t.r) =
      some ⟨3#32, 56000#32, 1000#32, 0#32⟩ := by decide

/-- R105, R106: at clk / t = 15.5 the divisor rounds up to 16, with the greatest error; below there is no solution. -/
theorem test_solveb_edge :
    (after (exec .solveb (unit1 Uart.reset 31#32 2#32))).map (fun t => t.r) = some ⟨1#32, 0#32, 1#32, 31250#32⟩ ∧
    (after (exec .solveb (unit1 Uart.reset 30#32 2#32))).map (fun t => t.r) =
      some ⟨0#32, 0#32, 0#32, 0xFFFFFFFF#32⟩ := by decide

/-- R154's example: the start status. -/
theorem test_rdsr :
    (after (exec (.rdsr 1#4) (unit1 (bound 0#8 0#2) 0#32 0#32))).map (fun t => t.r.q0) = some 0x0000000C#32 := by decide

/-- R155's example: 0x33, and rxr cleared. -/
theorem test_rddr :
    (after (exec (.rddr 1#4) (unit1 { bound 0#8 0#2 with sr := 0b0011100#7, rdr := 0x33#8 } 0#32 0#32))).map
      (fun t => (t.r.q0, (t.uart .u1).sr)) = some (0x33#32, 0b0001100#7) := by decide

/-- R156's example: 0x0D, and txe and txc cleared. -/
theorem test_wrdr :
    (after (exec (.wrdr 1#4 0x0D#8) (unit1 (bound 0#8 0#2) 0#32 0#32))).map
      (fun t => (t.r.q0, (t.uart .u1).tdr, (t.uart .u1).sr)) = some (0#32, 0x0D#8, 0#7) := by decide

/-- R225: HRET from the receive-ready handler goes on to the scan of kind 5. -/
theorem test_hret :
    (after (exec (.hret 1#4) (unit1 (inPhase (.inHandler .rxr)) 0#32 0#32))).map
      (fun t => (t.r.q0, (t.uart .u1).sr, (t.uart .u1).dsp.phase)) = some (0#32, 0b1101111#7, .scan .idle) := by decide

/-- R224: HRET in the foreground context. -/
theorem test_hret_foreground : (after (exec (.hret 1#4) State.reset)).map (fun t => t.r.q0) = some 0xFFFFFFFF#32 := by
  decide

/-! ### One step of the other agents -/

/-- R191's example, C = 4 after six bytes: (4 - 65534) mod 65536 = 6, clamped to 4; and R186's, 300 - 295 = 5. -/
theorem test_capturedLength : capturedLength 4#16 65534#16 = 4#16 ∧ capturedLength 300#16 295#16 = 5#16 ∧
    capturedLength 300#16 0#16 = 300#16 := by decide

/-- R197, R133: a byte of a circular stream of length 1 wraps the offset and takes the counter past 0. -/
theorem test_rxByte_circular :
    (after (agentStep (.rxByte .u1 0x5A#8)
      (unit1 { bound 0#8 1#2 with ch := ⟨{ rxRunning 1#16 true with cnt := 0#16 }, Chan.reset⟩ } 0#32 0#32))).map
      (fun t => (t.mem, (t.uart .u1).ch.rx.cnt, (t.uart .u1).ch.rx.off, (t.uart .u1).ch.rx.done)) =
      some ([(0x200, 0x5A#8)], 0xFFFF#16, 0#16, false) := by decide

/-- R134: the last byte of a transmit stream completes it. -/
theorem test_txMove_last :
    (after (agentStep (.txMove .u1)
      { unit1 { bound 0#8 2#2 with ch := ⟨Chan.reset, txRunning 1#16⟩ } 0#32 0#32 with mem := [(0x100, 0x77#8)] })).map
      (fun t => ((t.uart .u1).tdr, (t.uart .u1).ch.tx.active, (t.uart .u1).ch.tx.done)) =
      some (0x77#8, false, true) := by decide

/-- R219, R215: the scan of transmit-empty does not clear its level flag; the scan of cts clears cts. -/
theorem test_scan_clear :
    (after (agentStep (.dispatcher .u1) (unit1 (inPhase (.scan .txe)) 0#32 0#32))).map (fun t => (t.uart .u1).sr) =
      some 0x7F#7 ∧
    (after (agentStep (.dispatcher .u1) (unit1 (inPhase (.scan .cts)) 0#32 0#32))).map (fun t => (t.uart .u1).sr) =
      some 0x7E#7 := by decide

/-- R62, R238: SEND's byte at an address where MEM_VALID is false makes the foreground stuck; the line agent goes on. -/
theorem test_busFault :
    (after (agentStep .foreground (holedRun (bound 0#8 0#2) (.send .u1 1#16 0x100#32) .p1))).map
      (fun t => (t.fgFault, t.fg.op, (t.uart .u1).tdr, why (agentStep .foreground t),
        (after (agentStep (.rxByte .u1 7#8) t)).map fun t => (t.uart .u1).rdr)) =
      some (some ⟨0x100#32⟩, some (.send .u1 1#16 0x100#32), 0#8, some (.notEnabled .foreground), some 7#8) := by decide

/-- A receive stream of unit 1 about to store at that address. -/
def holedStream : Uart := { bound 0#8 1#2 with ch := ⟨{ rxRunning 1#16 false with dst := .mem 0x100#32 }, Chan.reset⟩ }

/-- R62, R133, R238: a receive stream at such an address makes its channel stuck; the byte stays latched. -/
theorem test_busFault_channel :
    (after (agentStep (.rxByte .u1 7#8) (holedRun holedStream (.recvb .u1) .p1))).map
      (fun t => ((t.uart .u1).chFault, (t.uart .u1).rdr, flag (t.uart .u1).sr .rxr, (t.uart .u1).ch.rx.cnt)) =
        some (⟨some ⟨0x100#32⟩, none⟩, 7#8, true, 1#16) := by decide

/-! ### Witnesses: concrete states and operands that meet the hypotheses of the statements

Each is named after its statement. A statement with several clauses has a witness for each, at boundary values. -/

/-- Unit 1 in the interrupt context, and unit 1 in a scan with no unit in a handler. -/
def handling : State := unit1 (inPhase (.inHandler .pe)) 0#32 0#32
def scanning : State := unit1 (inPhase (.scan .cts)) 0#32 0#32

theorem reset_free : State.reset.foregroundFree := ⟨by decide, by decide, by decide⟩
theorem handling_context : handling.hostContext := .inr ⟨by decide, by decide⟩

theorem witness_DecodeOfEncode : (Instr.seth 15#4 6#4).wf = true ∧ (Instr.recv 0#4 true 0xFFFF#16).wf = true := by decide

theorem witness_EncodeOfDecode : decode 0x06F60000#32 = .legal (.seth 15#4 6#4) ∧
    decode 0x03F1FFFF#32 = .legal (.recv 15#4 true 0xFFFF#16) := by decide

theorem witness_LegalWords : (∃ i, decode 0x06060000#32 = .legal i) ∧ ¬ (∃ i, decode 0x06070000#32 = .legal i) := by
  refine ⟨⟨.seth 0#4 6#4, by decide⟩, ?_⟩
  rintro ⟨i, h⟩
  rw [show decode 0x06070000#32 = .illegal .badKind by decide] at h
  cases h

theorem witness_IllegalWord : State.reset.hostContext ∧ handling.hostContext ∧
    (∀ row ∈ opcodeTable, row.selects 0x07000000#32 = false) ∧
    (fieldOp 0x06070000#32 = 0x06#8 ∧ 7 ≤ (fieldSub 0x06070000#32).toNat) ∧
    (fieldOp 0x060F0000#32 = 0x06#8 ∧ 7 ≤ (fieldSub 0x060F0000#32).toNat) :=
  ⟨.inl reset_free, handling_context, by decide, by decide, by decide⟩

theorem witness_StepRuns : decode 0x20100000#32 = .legal (.rdsr 1#4) ∧
    (State.reset.withFetchWord 32 0x20100000).sched = .hostCommand 0x20100000#32 :: [] ∧
    decode 0x07000000#32 = .illegal .unknownOp ∧
    (running (bound 0#8 0#2) (.recvb .u1) .p1).foregroundMayAct = true ∧
    (running (bound 0#8 0#2) (.recvb .u1) .p1).fg.op ≠ none := by decide

/-- The three contexts, each with an operation and without one, each kind of operation. -/
theorem witness_Acceptance :
    (∀ j, (State.reset.uart j).dsp.phase = .idle) ∧
    (∀ j, ((running (bound 0#8 0#2) (.recvb .u1) .p1).uart j).dsp.phase = .idle) ∧
    (running (bound 0#8 0#2) (.recvb .u1) .p1).fg.op ≠ none ∧
    (handling.uart .u1).dsp.phase = .inHandler .pe ∧
    foregroundOnly (.seth 1#4 6#4) = true ∧ foregroundOnly (.hret 1#4) = false ∧ handling.handlerFault = none ∧
    (scanning.uart .u1).dsp.phase ≠ .idle ∧ ∀ j k, (scanning.uart j).dsp.phase ≠ .inHandler k := by
  refine ⟨?_, ?_, by decide, by decide, by decide, by decide, by decide, by decide, ?_⟩
  · intro j; cases j <;> decide
  · intro j; cases j <;> decide
  · intro j k; cases j <;> cases k <;> decide

theorem witness_Presented : ∃ t, exec (.wrdr 1#4 7#8) handling = .next t ∧ unitTouched handling.par (.wrdr 1#4 7#8) ≠ some .u2 :=
  ⟨_, rfl, by decide⟩

/-- 63 / 2 = 31.5 carries a full sixteenth into the integer part; 16 000 000 / 115200 does not. -/
theorem witness_BaudDivisor :
    (solveBaud 63 2).map (fun x => (x.coarse, x.fine)) = some (2, 0) ∧
    (solveBaud 16000000 115200).map (fun x => (x.coarse, x.fine)) = some (8, 11) := by decide

theorem witness_SolveBaudRange :
    solveBaud 1 0 = none ∧ solveBaud 30 2 = none ∧ (solveBaud 31 2).isSome = true ∧
    (solveBaud 65535 1).isSome = true ∧ (solveBaud 131070 2).isSome = true ∧ solveBaud 131071 2 = none ∧ 2 ∣ 131070 := by
  decide

theorem witness_SolverOperations :
    (unit1 Uart.reset 0#32 1#32).foregroundFree ∧ solveBaud 0 1 = none ∧ (solveBaud 16000000 115200).isSome = true ∧
    solveTimer 1 0 = none ∧ (solveTimer 168000000 1000).isSome = true ∧ timerCandidate 1 2 1 = some ⟨1, 1, 1, 2⟩ :=
  ⟨⟨by decide, by decide⟩, by decide, by decide, by decide, by decide, by decide⟩

theorem witness_SolveTimer : (solveTimer 168000000 1000).map (fun x => (x.coarse, x.fine)) = some (3, 56000) ∧
    timerFine 168000000 1000 1 = 168000 ∧ timerFine 168000000 1000 65536 = 3 ∧ 168000000 = 1000 * (3 * 56000) := by
  decide

/-- At the boundary target = 2 * clock the first candidate is representable; above it none is. -/
theorem witness_SolveTimerNone : solveTimer 1 0 = none ∧ (timerCandidate 1 2 1).isSome = true ∧ timerFine 1 3 1 = 0 ∧
    timerFine (2 ^ 32 - 1) 1 65536 = 65536 := by decide

/-- INIT: a free unit, a bound one, each ground for a ConfigurationError, a disabled configuration, an enabled one. -/
theorem witness_Init :
    (unit1 Uart.reset 9600#32 0x20#32).foregroundFree ∧ namesNoUnit 0#4 ∧ namesNoUnit 7#4 ∧ namesNoUnit 15#4 ∧
    (bound 0#8 0#2).cfgv = true ∧ Uart.reset.cfgv = false ∧
    (0x00020000#32).extractLsb' 17 15 ≠ 0#15 ∧ (0x0001FFFF#32).extractLsb' 17 15 = 0#15 ∧
    (unpackOptions 9600#32 0x7#32).mode = .disabled ∧ (unpackOptions 9600#32 0x20#32).mode ≠ .disabled ∧
    unpackOptions 9600#32 0x20#32 ∉ Params.default.unsupported ∧
    solveBaud 42000000 42000001 = none ∧
    (solveBaud 42000000 9600).map (fun x => 16 * x.coarse + x.fine) = some 0x1117 :=
  ⟨⟨by decide, by decide⟩, .inl rfl, .inr (by decide), .inr (by decide), by decide, by decide, by decide, by decide,
    by decide, by decide, by decide, by decide, by decide⟩

theorem witness_Seth : handling.allIdle = false ∧ State.reset.foregroundFree ∧ State.reset.a.q0 = 0#32 ∧
    (unit1 Uart.reset 1#32 0#32).foregroundFree ∧ (unit1 Uart.reset 1#32 0#32).a.q0 ≠ 0#32 ∧ namesNoUnit 7#4 :=
  ⟨by decide, reset_free, by decide, ⟨by decide, by decide⟩, by decide, .inr (by decide)⟩

theorem witness_RegisterAccesses : State.reset.hostContext ∧ handling.hostContext ∧ namesNoUnit 0#4 :=
  ⟨.inl reset_free, handling_context, .inl rfl⟩

theorem witness_UnknownOrUnusable :
    (unitField (.seth 0#4 6#4) = some 0#4 ∧ (Instr.seth 0#4 6#4).wf = true ∧ State.reset.accepts (.seth 0#4 6#4)) ∧
    (unitField (.hret 15#4) = some 15#4 ∧ handling.accepts (.hret 15#4)) ∧
    (State.reset.uart .u2).cfgv = false ∧ Unit6.u2 = State.reset.par.frameUnit ∧
    ({ (bound 0#8 0#2).cfg with mode := .disabled } : UartConfig).mode = .disabled :=
  ⟨⟨by decide, by decide, .inl reset_free⟩, ⟨by decide, .inr ⟨by decide, by decide, by decide⟩⟩, by decide, by decide,
    by decide⟩

/-- SEND on unit 1 and FSEND on unit 2: lengths 0, 1 and 2, with transmit DMA and without. -/
theorem witness_SendStarts :
    (unit1 (bound 0#8 2#2) 0x100#32 0#32).foregroundFree ∧ (bound 0#8 2#2).usable = true ∧
    (bound 0#8 2#2).cfg.dmaen.getLsbD 1 = true ∧ (bound 0#8 1#2).cfg.dmaen.getLsbD 1 = false ∧
    (sendForms Params.default .u1 0#16 0x100#32).length = 1 ∧ (sendForms Params.default .u2 2#16 0x100#32).length = 2 ∧
    framed.foregroundFree ∧ (framed.uart .u2).usable = true :=
  ⟨⟨by decide, by decide⟩, by decide, by decide, by decide, by decide, by decide, ⟨by decide, by decide⟩, by decide⟩

theorem witness_ReceivesStart :
    (unit1 (bound 0#8 1#2) 0x200#32 0#32).foregroundFree ∧ (bound 0#8 1#2).usable = true ∧
    (bound 0#8 1#2).cfg.dmaen.getLsbD 0 = true ∧ (bound 0#8 2#2).cfg.dmaen.getLsbD 0 = false ∧
    framed.frame.init = true ∧ framed.foregroundFree ∧ State.reset.frame.init = false :=
  ⟨⟨by decide, by decide⟩, by decide, by decide, by decide, by decide, ⟨by decide, by decide⟩, by decide⟩

/-- A polled SEND of one byte with DMA enabled and of two without; every byte of the default memory is backed. -/
theorem witness_PolledSend :
    (unit1 (bound 0#8 0#2) 0x100#32 0#32).foregroundFree ∧ (bound 0#8 0#2).usable = true ∧
    (bound 0#8 0#2).dmaTx = false ∧ bufferValid Params.default 0x100#32 2#16 ∧ bufferValid Params.default 0xFFFFFFFF#32 2#16 :=
  ⟨⟨by decide, by decide⟩, by decide, by decide, fun _ _ => rfl, fun _ _ => rfl⟩

/-- A free transmit channel with the data register empty, and with a byte still waiting in it. -/
theorem witness_DmaSend :
    (unit1 (bound 0#8 2#2) 0x100#32 0#32).foregroundFree ∧ (bound 0#8 2#2).usable = true ∧ (bound 0#8 2#2).dmaTx = true ∧
    (bound 0#8 2#2).ch.tx.active = false ∧ (bound 0#8 2#2).ch.tx.done = false ∧ (bound 0#8 2#2).chFault.tx = none ∧
    flag (bound 0#8 2#2).sr .txe = true ∧ flag { bound 0#8 2#2 with sr := 0#7 }.sr .txe = false ∧
    2 ≤ (2#16 : Half).toNat ∧ bufferValid Params.default 0x100#32 2#16 :=
  ⟨⟨by decide, by decide⟩, by decide, by decide, by decide, by decide, by decide, by decide, by decide, by decide,
    fun _ _ => rfl⟩

/-- The polled path: accepting SEND of one byte and SENDB, and a step inside each. -/
theorem witness_NoTrigger :
    (∃ t, exec (.send 1#4 1#16) (unit1 (bound 0#8 3#2) 0x100#32 0#32) = .next t) ∧
    (∃ t, exec (.sendb 1#4 7#8) (unit1 (bound 0#8 3#2) 0#32 0#32) = .next t) ∧
    (running (bound 0#8 3#2) (.send .u1 1#16 0x100#32) .p1).polledSending ∧
    ∃ t, agentStep .foreground (running (bound 0#8 3#2) (.send .u1 1#16 0x100#32) .p1) = .next t :=
  ⟨⟨_, rfl⟩, ⟨_, rfl⟩, ⟨.inl ⟨.u1, 1#16, 0x100#32, rfl⟩, .inl rfl⟩, ⟨_, rfl⟩⟩

/-- No byte waiting, and one waiting: 0x33, at the boundary length 1. -/
theorem witness_PolledRecv :
    (unit1 (bound 0#8 0#2) 0x200#32 0#32).foregroundFree ∧ Memory.wf [] ∧ (bound 0#8 0#2).usable = true ∧
    (bound 0#8 0#2).dmaRx = false ∧ flag (bound 0#8 0#2).sr .rxr = false ∧
    flag { bound 0#8 0#2 with sr := 0x10#7, rdr := 0x33#8 }.sr .rxr = true ∧
    [(0x33#8 : Byte)].length = (1#16 : Half).toNat ∧ bufferValid Params.default 0x200#32 1#16 :=
  ⟨⟨by decide, by decide⟩, by decide, by decide, by decide, by decide, by decide, by decide, fun _ _ => rfl⟩

theorem witness_OneShotRecv :
    (unit1 (bound 0#8 1#2) 0x200#32 0#32).foregroundFree ∧ Memory.wf [] ∧ (bound 0#8 1#2).usable = true ∧
    (bound 0#8 1#2).dmaRx = true ∧ flag (bound 0#8 1#2).sr .rxr = false ∧ (bound 0#8 1#2).ch.rx.active = false ∧
    (bound 0#8 1#2).ch.rx.done = false ∧ (bound 0#8 1#2).chFault.rx = none ∧ [0x10#8, (0x20#8 : Byte)].length = (2#16 : Half).toNat ∧
    bufferValid Params.default 0x200#32 2#16 :=
  ⟨⟨by decide, by decide⟩, by decide, by decide, by decide, by decide, by decide, by decide, by decide, by decide,
    fun _ _ => rfl⟩

/-- RECV's label D1 with no byte waiting and with one, at the boundary length 1. -/
theorem witness_RecvTrigger :
    (running (bound 0#8 1#2) (.recv .u1 false 1#16 0x200#32) .d1).foregroundMayAct = true ∧
    (bound 0#8 1#2).chFault.rx = none ∧ (bound 0#8 1#2 |>.stickCh .rx ⟨0#32⟩).chFault.rx ≠ none ∧
    (bound 0#8 1#2).ch.rx.active = false ∧ (bound 0#8 1#2).ch.rx.done = false ∧
    flag (bound 0#8 1#2).sr .rxr = false ∧ flag { bound 0#8 1#2 with sr := 0b0011100#7 }.sr .rxr = true ∧
    { bound 0#8 1#2 with sr := 0b0011100#7 }.dmaRx = true ∧ memValid Params.default (byteAddr 0x200#32 0#16) = true := by
  decide

/-- No byte waiting, without a stream and with a running one but no receive DMA, and a byte waiting. -/
theorem witness_ByteOperations :
    (unit1 (bound 0#8 0#2) 0#32 0#32).foregroundFree ∧ (bound 0#8 0#2).usable = true ∧
    flag (bound 0#8 0#2).sr .rxr = false ∧ (bound 0#8 0#2).ch.rx.active = false ∧ (bound 0#8 0#2).dmaRx = false ∧
    flag { bound 0#8 1#2 with sr := 0x10#7, rdr := 0x33#8 }.sr .rxr = true :=
  ⟨⟨by decide, by decide⟩, by decide, by decide, by decide, by decide, by decide⟩

/-- Each wait, in R235's order: SEND P2 and D2, RECV P1 and D2, SENDB P2, RECVB P1, FRECV W1. -/
theorem witness_Waits :
    flag (bound 0#8 0#2 |>.writeTdr 1#8).sr .txe = false ∧ (bound 0#8 0#2).sig.tx = false ∧
    flag (bound 0#8 0#2).sr .rxr = false ∧ (bound 0#8 0#2).sig.rx = false ∧ (framed.uart .u2).sig.rx = false ∧
    (running (bound 0#8 0#2) (.send .u1 2#16 0x100#32) .p2).foregroundMayAct = true ∧
    (running (bound 0#8 0#2) (.send .u1 2#16 0x100#32) .d2).foregroundMayAct = true ∧
    (running (bound 0#8 0#2) (.recv .u1 false 2#16 0x200#32) .p1).foregroundMayAct = true ∧
    (running (bound 0#8 0#2) (.sendb .u1 1#8) .p2).foregroundMayAct = true ∧
    (running (bound 0#8 0#2) (.recvb .u1) .p1).foregroundMayAct = true ∧
    framed.foregroundMayAct = true ∧ Unit6.u2 = framed.par.frameUnit := by decide

theorem witness_ChannelSteps :
    (bound 0#8 0#2).cfg.dmaen.getLsbD 1 = false ∧ Chan.reset.active = false ∧ flag (0#7) .txe = false ∧
    (bound 0#8 2#2).cfg.dmaen.getLsbD 1 = true ∧ (txRunning 1#16).active = true ∧ flag (bound 0#8 2#2).sr .txe = true ∧
    (txRunning 1#16).src = .mem 0x100#32 ∧ memValid Params.default (byteAddr 0x100#32 0#16) = true ∧
    (bound 0#8 2#2).chFault.tx = none ∧ (bound 0#8 2#2 |>.stickCh .tx ⟨0#32⟩).chFault.tx ≠ none ∧
    Chan.reset.done = false ∧ { Chan.reset with done := true }.done = true := by decide

theorem witness_CircularStream : (framed.uart .u2).ch.rx.circ = true ∧ (framed.uart .u2).ch.rx.active = true ∧
    (framed.uart .u2).ch.rx.done = false ∧ ∃ t, agentStep (.rxByte .u2 1#8) framed = .next t :=
  ⟨by decide, by decide, by decide, ⟨_, rfl⟩⟩

theorem witness_RxByte :
    (bound 0#8 1#2).usable = true ∧ flag { bound 0#8 1#2 with sr := 0x10#7 }.sr .rxr = true ∧
    flag (bound 0#8 1#2).sr .rxr = false ∧ (bound 0#8 0#2).cfg.dmaen.getLsbD 0 = false ∧
    (bound 0#8 1#2).ch.rx.active = false ∧ (bound 0#8 1#2).cfg.dmaen.getLsbD 0 = true ∧
    (rxRunning 1#16 true).active = true ∧ (rxRunning 1#16 false).dst = .mem 0x200#32 ∧
    (bound 0#8 1#2).chFault.rx = none ∧ (bound 0#8 1#2 |>.stickCh .rx ⟨0#32⟩).chFault.rx ≠ none ∧
    memValid Params.default (byteAddr 0x200#32 0#16) = true := by decide

theorem witness_LineEvents :
    (bound 0#8 0#2).usable = true ∧ { bound 0#8 0#2 with rxact := true }.rxact = true ∧ (bound 0#8 0#2).rxact = false ∧
    flag (0#7) .txe = false ∧ flag (bound 0#8 0#2).sr .txe = true ∧ Move.lineUnit (.ctsEvent .u1) = some .u1 ∧
    Uart.reset.cfgv = false ∧ { (bound 0#8 0#2).cfg with mode := .disabled }.mode = .disabled := by decide

theorem witness_LineAgent : Move.lineUnit (.rxByte .u1 1#8) = some .u1 ∧
    (∃ t, agentStep (.rxByte .u1 1#8) (unit1 (bound 0#8 0#2) 0#32 0#32) = .next t) ∧
    (∃ t, agentStep (.breakEvent .u1) (unit1 (bound 0#8 0#2) 0#32 0#32) = .next t) ∧
    ∀ b, Move.breakEvent .u1 ≠ .rxByte .u1 b :=
  ⟨rfl, ⟨_, rfl⟩, ⟨_, rfl⟩, by intro b h; cases h⟩

theorem witness_ActiveStream :
    (∀ i, (framed.uart i).dmaRx = true → (framed.uart i).ch.rx.active = true → (framed.uart i).chFault.rx = none →
      flag (framed.uart i).sr .rxr = false) ∧
    ∃ t, agentStep (.rxByte .u2 1#8) framed = .next t := by
  refine ⟨?_, ⟨_, rfl⟩⟩
  intro i; cases i <;> decide

theorem witness_DispatchEnter :
    (bound 0x02#8 0#2).irq = true ∧ (bound 0x02#8 0#2).dsp.phase = .idle ∧ (bound 0x80#8 0#2).irq = false ∧
    (inPhase (.inHandler .cts)).dsp.phase = .inHandler .cts := by decide

/-- The scan step of each kind of slot, at the first and the last kind. -/
theorem witness_Scan :
    (inPhase (.scan .cts)).dsp.phase = .scan .cts ∧ (inPhase (.scan .pe)).dsp.phase = .scan .pe ∧
    flag (inPhase (.scan .pe)).dsp.snap .pe = true ∧ flag (bound 0#8 0#2).dsp.snap .pe = false ∧
    (inPhase (.scan .pe)).hslot.get .pe = .empty ∧ (framed.uart .u2).hslot.get .idle = .frame ∧
    ((inPhase (.scan .pe)).setSlot .pe (.ext 1#32)).hslot.get .pe = .ext 1#32 := by decide

theorem witness_Hret :
    handling.hostContext ∧ (handling.uart .u1).dsp.phase = .inHandler .pe ∧
    (∀ k, (handling.uart .u2).dsp.phase ≠ .inHandler k) ∧ namesNoUnit 7#4 := by
  refine ⟨handling_context, by decide, ?_, .inr (by decide)⟩
  intro k; cases k <;> decide

/-- A unit with all seven flags set, an external handler on every kind. -/
theorem witness_Dispatch :
    (unit1 (inPhase .idle) 0#32 0#32).handlerFault = none ∧ (inPhase .idle).dsp.phase = .idle ∧ (inPhase .idle).irq = true ∧
    ∀ k, (({ inPhase .idle with hslot := ⟨.ext 1#32, .ext 2#32, .ext 3#32, .ext 4#32, .ext 5#32, .ext 6#32, .ext 7#32⟩ } :
      Uart).hslot.get k) ≠ .frame := by
  refine ⟨by decide, by decide, by decide, ?_⟩
  intro k; cases k <;> decide

theorem witness_Snapshot : ∃ t, agentStep (.dispatcher .u1) (unit1 (inPhase .idle) 0#32 0#32) = .next t ∧
    (t.uart .u1).dsp.snap = 0x7F#7 ∧ ((unit1 { inPhase .idle with dsp := ⟨.idle, 0#7, 0#16⟩ } 0#32 0#32).uart .u1).dsp.snap ≠ 0x7F#7 :=
  ⟨_, rfl, by decide, by decide⟩

theorem witness_Finit :
    State.reset.foregroundFree ∧ Unit6.u2 = State.reset.par.frameUnit ∧ (State.reset.uart .u2).cfgv = false ∧
    (framed.uart .u2).cfgv = true ∧ framed.foregroundFree ∧ State.reset.a.q0 = 0#32 ∧
    (⟨115200#32, .halfDuplex, .none, .one, 0x10#8, 3#2⟩ : UartConfig) ∉ Params.default.unsupported ∧
    (solveBaud 42000000 115200).map (fun x => 16 * x.coarse + x.fine) = some 0x016D ∧
    (State.reset.uart .u2).ch.rx.active = false ∧ (State.reset.uart .u2).ch.rx.done = false :=
  ⟨reset_free, by decide, by decide, by decide, ⟨by decide, by decide⟩, by decide, by decide, by decide, by decide,
    by decide⟩

theorem witness_FramingHandler :
    (inPhase (.frame .f0)).dsp.phase = .frame .f0 ∧ (inPhase (.frame .f4)).dsp.phase = .frame .f4 ∧
    (inPhase (.frame .f5)).dsp.phase = .frame .f5 ∧ flag (inPhase (.frame .f4)).sr .rxr = true ∧
    (inPhase (.frame .f4)).dmaRx = false ∧ (bound 0x10#8 3#2).dmaRx = true ∧ (bound 0x10#8 3#2).chFault.rx = none ∧
    (rxRunning 1#16 true).dst = .mem 0x200#32 ∧ (rxRunning 1#16 true).circ = true ∧
    memValid Params.default (byteAddr 0x200#32 0#16) = true := by decide

theorem framed_ready : framed.FramingReady where
  init := by decide
  usable := by decide
  dmaRx := by decide
  ie := by decide
  masked := by decide
  phase := by decide
  rxr := by decide
  handler := by decide
  others := by intro k hk; cases k <;> first | decide | exact absurd rfl hk
  dst := by decide
  len := by decide
  circ := by decide
  active := by decide
  cnt := by decide
  off := by decide
  live := by decide
  host := by decide

/-- The start state of R185 after FINIT: bursts of 1, 300 and 301 bytes meet the bounds. -/
theorem witness_CapturedLength : framed.FramingReady ∧ framed.par.wf = true ∧ framed.mem.wf ∧ framed.WindowValid ∧
    1 ≤ [(0x7F#8 : Byte)].length ∧ (List.replicate 301 (0#8 : Byte)).length ≤ 65535 :=
  ⟨framed_ready, by decide, by decide, fun _ _ => rfl, by decide, by rw [List.length_replicate]; omega⟩

theorem witness_FrameLengths : framed.FramingReady ∧ framed.par.wf = true ∧ framed.mem.wf ∧ framed.WindowValid ∧
    [(1#8 : Byte), 2#8].length ≤ framed.par.frameCap.toNat ∧ 1 ≤ [(3#8 : Byte)].length :=
  ⟨framed_ready, by decide, by decide, fun _ _ => rfl, by decide, by decide⟩

/-- A frame of two bytes, one of one byte; the caller's buffer lies 0x1000 above the window. -/
theorem witness_Frecv :
    (captured 2#16).foregroundFree ∧ (captured 2#16).mem.wf ∧ (captured 2#16).frame.init = true ∧
    ((captured 2#16).uart .u2).sig.rx = true ∧ 2 ≤ (captured 2#16).frame.len.toNat ∧
    bufferValid (captured 2#16).par (captured 2#16).par.winBase 2#16 ∧
    bufferValid (captured 2#16).par (captured 2#16).a.q0 2#16 ∧
    (∀ j k : Half, j.toNat < 2 → k.toNat < 2 → byteAddr 0x20000000#32 j ≠ byteAddr 0x20001000#32 k) ∧
    (captured 1#16).frame.len.toNat < 2 := by
  refine ⟨⟨by decide, by decide⟩, by decide, by decide, by decide, by decide, fun _ _ => rfl, fun _ _ => rfl, ?_,
    by decide⟩
  intro j k hj hk h
  have := congrArg BitVec.toNat h
  simp [byteAddr] at this
  omega

theorem reset_afterReset : State.reset.AfterReset where
  cmd := rfl
  a := rfl
  r := rfl
  op := rfl
  units := by
    intro i
    cases i <;>
      exact ⟨rfl, rfl, rfl, fun k => by cases k <;> rfl, fun d => by cases d <;> rfl, rfl, rfl,
        fun d => by cases d <;> rfl, fun d => by cases d <;> rfl, fun d => by cases d <;> rfl⟩
  frame := rfl
  trace := rfl
  fault := ⟨rfl, rfl⟩

theorem witness_PeerFrame : State.reset.AfterReset ∧ State.reset.par.wf = true ∧ State.reset.mem.wf ∧
    State.reset.WindowValid ∧ (solveBaud 42000000 115200).isSome = true ∧
    unpackOptions 115200#32 framingOptions ∉ State.reset.par.unsupported ∧
    2 ≤ [(0x41#8 : Byte), 0x42#8].length ∧ bufferValid State.reset.par 0x20001000#32 2#16 ∧
    (∀ j k : Half, j.toNat < 2 → k.toNat < 2 → byteAddr 0x20000000#32 j ≠ byteAddr 0x20001000#32 k) :=
  ⟨reset_afterReset, by decide, by decide, fun _ _ => rfl, by decide, by decide, by decide, fun _ _ => rfl,
    witness_Frecv.2.2.2.2.2.2.2.1⟩

/-- The invariant holds of a state with the framing protocol running. -/
theorem framed_inv : framed.Inv where
  params := by decide
  memory := by decide
  config := by intro i; cases i <;> (unfold Uart.ConfigSound; decide)
  slots := by intro i k; cases i <;> cases k <;> decide
  dispatch := by
    intro i
    refine ⟨by cases i <;> decide, fun f h => ?_, fun k h => ?_⟩
    · cases i <;> cases h
    · cases i <;> cases h
  channels := by
    intro i
    have rx : ∀ j, j ≠ Unit6.u2 → (framed.uart j).ch.rx.active = false ∧ (framed.uart j).ch.rx.done = false := by
      intro j hj; cases j <;> first | decide | exact absurd rfl hj
    have tx : ∀ j, (framed.uart j).ch.tx.active = false ∧ (framed.uart j).ch.tx.done = false := by
      intro j; cases j <;> decide
    refine ⟨?_, ⟨?_, ?_, ?_, ?_, ?_⟩, ?_⟩
    · by_cases hi : i = .u2
      · subst hi
        exact ⟨fun _ => ⟨rfl, rfl, rfl, _, rfl⟩, fun _ => rfl, by decide, by decide, by decide⟩
      · obtain ⟨h1, h2⟩ := rx i hi
        exact ⟨by simp [h1], by simp [h1], by simp [h2], by simp [h1], by simp [h1]⟩
    · intro h; rw [(tx i).1] at h; cases h
    · intro h; rw [(tx i).1] at h; cases h
    · intro h; rw [(tx i).2] at h; cases h
    · intro h; rw [(tx i).1] at h; cases h
    · intro h; rw [(tx i).1] at h; cases h
    · intro h; rw [(tx i).1] at h; cases h
  framing := by
    refine ⟨by decide, by decide, by decide, by decide, by decide, fun f h => ?_⟩
    cases h
  fg := trivial
  faults := by
    refine ⟨fun f h => ?_, fun f h => ?_, fun i d f h => ?_⟩
    · cases h
    · cases h
    · cases i <;> cases d <;> cases h

/-- The same of that state with an operation in progress that is sound, and with moves scheduled. -/
theorem framed_with_inv (fg : Fg) (moves : List Move) (h : ({ framed with fg := fg } : State).FgSound) :
    ({ framed with fg := fg, sched := moves } : State).Inv where
  params := framed_inv.params
  memory := framed_inv.memory
  config := framed_inv.config
  slots := framed_inv.slots
  dispatch := framed_inv.dispatch
  channels := framed_inv.channels
  framing :=
    ⟨framed_inv.framing.handler, framed_inv.framing.bound, framed_inv.framing.window, framed_inv.framing.stream,
      framed_inv.framing.length, framed_inv.framing.flen⟩
  fg := h
  faults := ⟨framed_inv.faults.foreground, framed_inv.faults.handler, framed_inv.faults.channels⟩

/-- SEND over an active and a pending transmit channel, RECV over an active receive one, RECV by DMA on the framing unit
after FINIT in a state that meets the invariant, and FINIT of an unbound framing unit whose receive channel runs. -/
theorem witness_Overlap :
    (running { bound 0#8 3#2 with ch := ⟨Chan.reset, txRunning 2#16⟩ } (.send .u1 2#16 0x100#32) .d1).foregroundMayAct =
      true ∧
    (txRunning 2#16).active = true ∧ (rxRunning 2#16 true).active = true ∧
    { Chan.reset with done := true }.done = true ∧
    (({ framed with fg := ⟨some (.recv .u2 false 2#16 0x200#32), .d1, 0#16, 0#16⟩, sched := [] } : State).Inv ∧
      framed.frame.init = true ∧ Unit6.u2 = framed.par.frameUnit) ∧
    ({ State.reset.setUart .u2 { Uart.reset with ch := ⟨rxRunning 2#16 true, Chan.reset⟩ } with
        a := ⟨115200#32, 0#32, 0#32, 0#32⟩ } : State).foregroundFree ∧
    (Uart.reset.cfgv = false ∧ { Uart.reset with ch := ⟨rxRunning 2#16 true, Chan.reset⟩ }.ch.rx.active = true) ∧
    unpackOptions 115200#32 framingOptions ∉ Params.default.unsupported ∧ (solveBaud 42000000 115200).isSome = true :=
  ⟨by decide, by decide, by decide, by decide,
    ⟨framed_with_inv _ [] ⟨by decide, ⟨by decide, by decide⟩, fun h => by simp at h⟩, by decide, by decide⟩,
    ⟨by decide, by decide⟩, ⟨by decide, by decide⟩, by decide, by decide⟩

theorem witness_Isolation : framed.Inv ∧ Move.unit (.rxByte .u2 1#8) = some .u2 ∧
    ∃ t, agentStep (.rxByte .u2 1#8) framed = .next t := ⟨framed_inv, rfl, ⟨_, rfl⟩⟩

theorem witness_BoundConfiguration : (framed.uart .u2).cfgv = true ∧
    (∃ t, agentStep (.hostCommand 0x20200000#32) framed = .next t) ∧
    (State.reset.uart .u2).cfgv = false ∧ (framed.uart .u2).cfgv = true ∧
    (after (agentStep (.hostCommand 0x08000000#32) { State.reset with a := ⟨115200#32, 0#32, 0#32, 0#32⟩ })).map
      (fun t => (t.uart .u2).cfgv) = some true := ⟨by decide, ⟨_, rfl⟩, by decide, by decide, by decide⟩

/-- A signal set by the completion callback; one cleared by a foreground step. -/
theorem witness_Signals : framed.Inv ∧
    (after (agentStep (.dmaDone .u1 .tx)
      (unit1 { bound 0#8 2#2 with ch := ⟨Chan.reset, { Chan.reset with done := true }⟩ } 0#32 0#32))).map
      (fun t => (t.uart .u1).sig.get .tx) = some true ∧
    (after (agentStep .foreground (running { bound 0#8 2#2 with sig := ⟨false, true⟩ }
      (.send .u1 2#16 0x100#32) .d3))).map (fun t => (t.uart .u1).sig.get .tx) = some false :=
  ⟨framed_inv, by decide, by decide⟩

theorem witness_MaskAndHandlerTable :
    (after (agentStep (.dispatcher .u1) (unit1 (inPhase (.frame .f0)) 0#32 0#32))).map (fun t => (t.uart .u1).masked) =
      some true ∧ (inPhase (.frame .f0)).masked = false ∧
    (after (agentStep (.hostCommand 0x06140000#32) (unit1 Uart.reset 1#32 0#32))).map (fun t => (t.uart .u1).hslot.get .rxr) =
      some (.ext 1#32) := by decide

theorem witness_Stores : State.reset.mem.wf ∧ (∃ t, agentStep (.hostStore 0x100#32 1#8) State.reset = .next t) ∧
    Move.storeAddress State.reset (.hostStore 0x100#32 1#8) ≠ some 0x101#32 := ⟨by decide, ⟨_, rfl⟩, by decide⟩

/-- 0x100 is unbacked, 0x101 backed again. -/
theorem witness_Memory : Memory.wf [(0x100, 1#8)] ∧ memValid holed 0x100#32 = false ∧ memValid holed 0x101#32 = true := by
  decide

/-- Each access of the unbacked address 0x100, in the statement's order. -/
theorem witness_BusFaults :
    memValid holed 0x100#32 = false ∧ byteAddr 0x100#32 0#16 = 0x100#32 ∧
    ((holedRun (bound 0#8 0#2) (.send .u1 1#16 0x100#32) .p1).foregroundMayAct = true ∧
      (holedRun (bound 0#8 0#2) (.recv .u1 false 1#16 0x100#32) .p2).foregroundMayAct = true ∧
      memValid holed (byteAddr holed.winBase 0#16) = true ∧
      memValid { holed with winBase := 0x100#32 } 0x100#32 = false) ∧
    (({ bound 0#8 2#2 with ch := ⟨Chan.reset, txRunning 2#16⟩ } : Uart).txMoveEnabled = true ∧
      (txRunning 2#16).src = .mem 0x100#32) ∧
    (holedStream.dmaRx = true ∧ holedStream.chFault.rx = none ∧ holedStream.usable = true ∧
      holedStream.ch.rx.active = true ∧ flag holedStream.sr .rxr = false ∧ holedStream.ch.rx.dst = .mem 0x100#32 ∧
      (bound 0#8 1#2).ch.rx.active = false ∧ (bound 0#8 1#2).ch.rx.done = false ∧
      flag { bound 0#8 1#2 with sr := 0x1C#7 }.sr .rxr = true ∧
      { holedStream with sr := 0x1C#7, dsp := ⟨.frame .f4, 0x20#7, 0#16⟩ }.dsp.phase = .frame .f4) ∧
    (State.resetWith holed).foregroundMayAct = true ∧ handling.handlerMayAct = true := by decide

/-- The foreground, the interrupt context and each channel stuck; a record made by each kind of move; and a move of a
unit in a state with records. -/
theorem witness_Stuck :
    (({ State.reset with fgFault := some ⟨0x100#32⟩ } : State).allIdle = true ∧
      ({ handling with handlerFault := some ⟨0x100#32⟩ } : State).allIdle = false) ∧
    ((after (agentStep (.rxByte .u1 7#8) (holedRun (holedStream.stickCh .rx ⟨0x100#32⟩) (.recvb .u1) .p1))).isSome = true ∧
      (holedStream.stickCh .tx ⟨0x100#32⟩).chFault.get .tx ≠ none) ∧
    ((after (agentStep (.hostStore 0x100#32 1#8) (State.resetWith holed))).map (fun t => t.fgFault) =
        some (some ⟨0x100#32⟩) ∧
      (after (agentStep (.hostStore 0x100#32 1#8) { handling with par := holed })).map (fun t => t.handlerFault) =
        some (some ⟨0x100#32⟩) ∧
      (after (agentStep (.rxByte .u1 7#8) (holedRun holedStream (.recvb .u1) .p1))).map
        (fun t => (t.uart .u1).chFault.get .rx) = some (some ⟨0x100#32⟩)) ∧
    Move.unit (.rxByte .u2 1#8) = some .u2 ∧ (after (agentStep (.rxByte .u2 1#8) framed)).isSome = true := by decide

/-- Both contexts of the host, an operation in progress that reads no operand register, and a backed address. -/
theorem witness_HostWrites :
    State.reset.hostMayAct = true ∧ handling.hostMayAct = true ∧
    (after (agentStep .foreground (running (bound 0#8 0#2) (.sendb .u1 1#8) .p1))).isSome = true ∧
    State.reset.mem.wf ∧ memValid State.reset.par 0xFFFFFFFF#32 = true := by decide

theorem witness_Trace : ∃ t, step (State.reset.withFetchWord 32 0x20100000) = .next t := ⟨_, rfl⟩

/-- An operation in progress in a state that meets the invariant: RECVB on the framing unit. -/
theorem witness_Steps :
    ({ framed with fg := ⟨some (.recvb .u2), .p1, 0#16, 0#16⟩, sched := [] } : State).Inv ∧
    ({ framed with fg := ⟨some (.recvb .u2), .p1, 0#16, 0#16⟩ } : State).foregroundMayAct = true ∧
    ({ framed with fg := ⟨some (.recvb .u2), .p1, 0#16, 0#16⟩ } : State).fg.op ≠ none ∧
    (scanning.uart .u1).dsp.phase = .scan .cts :=
  ⟨framed_with_inv _ [] ⟨by decide, .inl rfl⟩, by decide, by decide, by decide⟩

theorem witness_StepInvariant : ({ framed with sched := [.rxByte .u2 1#8] } : State).Inv ∧
    ∃ t, step { framed with sched := [.rxByte .u2 1#8] } = .next t :=
  ⟨framed_with_inv framed.fg _ trivial, ⟨_, rfl⟩⟩

theorem witness_ResetInvariant : State.reset.AfterReset ∧ State.reset.par.wf = true ∧ State.reset.mem.wf :=
  ⟨reset_afterReset, by decide, by decide⟩

theorem witness_AfterReset : State.reset.AfterReset ∧ ∃ t, agentStep (.hostOperand 0 1#32) State.reset = .next t :=
  ⟨reset_afterReset, ⟨_, rfl⟩⟩

end Sys2Proof.Tests
end

section
/-! PROOFS. Snapshots and waits: a dispatcher's snapshot is written by trap entry alone (R213, R221), and a wait whose
condition is not yet true is a step that changes nothing (R12, R235). -/

namespace Sys2Proof.Machine

/-! ### The snapshot -/

/-- The receive service leaves the dispatcher alone (R133). -/
theorem Uart.Serviced.dsp_eq {p : Params} {u v : Uart} (h : u.Serviced p v) : v.dsp = u.dsp := by
  obtain ⟨-, rfl⟩ | ⟨-, rfl⟩ | ⟨-, f, -, rfl⟩ := h
  · rfl
  · simp
  · simp

/-- Every change of a unit but trap entry keeps its dispatcher's snapshot. -/
theorem UnitStep.snap_kept_or_entered {s : State} {i : Unit6} {m : Move} {v : Uart} (h : UnitStep s i m v) :
    v.dsp.snap = (s.uart i).dsp.snap ∨
    (m = .dispatcher i ∧ (s.uart i).dsp.phase = .idle ∧ (s.uart i).irq = true ∧ v = (s.uart i).dispatchEnter) := by
  cases h with
  | enter hp hq => exact .inr ⟨rfl, hp, hq, rfl⟩
  | finit _ _ _ _ hv => exact .inl (by rw [hv.dsp_eq]; rfl)
  | fgStartRx _ _ _ hv => exact .inl (by rw [hv.dsp_eq]; rfl)
  | f4 _ hv => exact .inl (by rw [hv.dsp_eq]; rfl)
  | rxLatched _ _ hv => exact .inl (by rw [hv.dsp_eq])
  | hret | finish | f5 => exact .inl (by simp)
  | _ => exact .inl rfl

/-- Settles O40: a move changes a unit as one of `UnitStep`'s cases, and only trap entry's case writes the snapshot. -/
theorem snapshotIsTakenOnlyFromIdle : Obligations.SnapshotIsTakenOnlyFromIdle := by
  intro s t m i h hne
  obtain hk | ⟨hm, hp, hq, hv⟩ := (agentStep_unit i h).snap_kept_or_entered
  · exact absurd hk hne
  · exact ⟨hm, hp, hq, by rw [hv, Uart.dispatchEnter_dsp], by rw [hv, Uart.dispatchEnter_dsp]⟩

/-! ### Waits -/

/-- P2 of SEND and FSEND waits for the data register to be empty (R121). -/
theorem sendStep_waits_txe {s : State} {name : OpName} {i : Unit6} {len : Half} {buf : Word}
    (hp : s.fg.phase = .p2) (hw : flag (s.uart i).sr .txe = false) : sendStep name i len buf s = .next s := by
  simp [sendStep, hp, hw]

/-- D2 of SEND and FSEND waits for the transmit channel's CompletionSignal (R121). -/
theorem sendStep_waits_signal {s : State} {name : OpName} {i : Unit6} {len : Half} {buf : Word}
    (hp : s.fg.phase = .d2) (hw : (s.uart i).sig.tx = false) : sendStep name i len buf s = .next s := by
  simp [sendStep, hp, hw]

/-- P2 of SENDB waits for the data register to be empty (R123). -/
theorem sendbStep_waits_txe {s : State} {i : Unit6} {v : Byte}
    (hp : s.fg.phase = .p2) (hw : flag (s.uart i).sr .txe = false) : sendbStep i v s = .next s := by
  simp [sendbStep, hp, hw]

/-- P1 of RECV waits for a byte (R122). -/
theorem recvStep_waits_rxr {s : State} {i : Unit6} {circ : Bool} {len : Half} {buf : Word}
    (hp : s.fg.phase = .p1) (hw : flag (s.uart i).sr .rxr = false) : recvStep i circ len buf s = .next s := by
  simp [recvStep, hp, hw]

/-- D2 of RECV waits for the receive channel's CompletionSignal (R122). -/
theorem recvStep_waits_signal {s : State} {i : Unit6} {circ : Bool} {len : Half} {buf : Word}
    (hp : s.fg.phase = .d2) (hw : (s.uart i).sig.rx = false) : recvStep i circ len buf s = .next s := by
  simp [recvStep, hp, hw]

/-- P1 of RECVB waits for a byte (R124). -/
theorem recvbStep_waits_rxr {s : State} {i : Unit6}
    (hp : s.fg.phase = .p1) (hw : flag (s.uart i).sr .rxr = false) : recvbStep i s = .next s := by
  simp [recvbStep, hp, hw]

/-- W1 of FRECV waits for the framing unit's receive signal (R173). -/
theorem frecvStep_waits_signal {s : State} {buf : Word}
    (hp : s.fg.phase = .w1) (hw : (s.uart s.par.frameUnit).sig.rx = false) : frecvStep buf s = .next s := by
  simp [frecvStep, hp, hw]

/-- The step of an operation in progress (R27): the label FG.phase of that operation's pseudocode. -/
def FgOp.step (s : State) : FgOp → Out
  | .send i len buf => sendStep .send i len buf s
  | .recv i circ len buf => recvStep i circ len buf s
  | .sendb i v => sendbStep i v s
  | .recvb i => recvbStep i s
  | .fsend len buf => sendStep .fsend s.par.frameUnit len buf s
  | .frecv buf => frecvStep buf s

/-- Where the foreground may act, its step is the step of the operation in progress (R17, R27). -/
theorem foregroundStep_of_op {s : State} {op : FgOp} (hm : s.foregroundMayAct = true) (hop : s.fg.op = some op) :
    foregroundStep s = op.step s := by
  unfold foregroundStep
  rw [if_pos hm, hop]
  cases op <;> rfl

/-- Settles O28: each wait is a label of its operation's step that answers the state it was given. -/
theorem waitsChangeNothing : Obligations.WaitsChangeNothing := by
  intro s i circ len buf v hm hwait
  change foregroundStep s = .next s
  obtain ⟨hop | ⟨hop, rfl⟩ | hop, hp, hw⟩ | ⟨hop | ⟨hop, rfl⟩, hp, hw⟩ | ⟨hop | hop, hp, hw⟩ | ⟨hop, hp, hw⟩ |
    ⟨hop, rfl, hp, hw⟩ := hwait <;> rw [foregroundStep_of_op hm hop]
  · exact sendStep_waits_txe hp hw
  · exact sendStep_waits_txe hp hw
  · exact sendbStep_waits_txe hp hw
  · exact sendStep_waits_signal hp hw
  · exact sendStep_waits_signal hp hw
  · exact recvStep_waits_rxr hp hw
  · exact recvbStep_waits_rxr hp hw
  · exact recvStep_waits_signal hp hw
  · exact frecvStep_waits_signal hp hw

end Sys2Proof.Machine
end

section
/-! PROOFS. No step faults, and no operation in progress is without a step: what each part of a move answers, said as
"it is no fault" or "it is a next state, or the refusal of an overlap at label D1" (R27, R47, R91, R138). -/

namespace Sys2Proof.Machine

/-! ### Arming, triggering and the receive service -/

/-- The receive service is a step wherever an active stream's memory side is an address (R47, R133). -/
theorem rxServiceStep_has_next {i : Unit6} {s : State}
    (h : (s.uart i).ch.rx.active = true → ∃ base, (s.uart i).ch.rx.dst = .mem base) :
    ∃ t, rxServiceStep i s = .next t := by
  unfold rxServiceStep
  cases ht : (s.uart i).rxTakes with
  | false => rw [rxService_idle ht]; exact ⟨_, rfl⟩
  | true =>
    have ha : (s.uart i).ch.rx.active = true := by
      simp only [Uart.rxTakes, Bool.and_eq_true] at ht
      exact ht.1.1.2
    obtain ⟨base, hd⟩ := h ha
    cases hv : memValid s.par (byteAddr base (s.uart i).ch.rx.off) with
    | true => rw [rxService_takes ht hd hv]; exact ⟨_, rfl⟩
    | false => rw [rxService_sticks ht hd hv]; exact ⟨_, rfl⟩

theorem armStep_overlap {i : Unit6} {d : Dir} {s : State} (h : ((s.uart i).ch.get d).outstanding = true)
    (dir : XferDir) (src dst : Endpoint) (len : Half) (circ : Bool) (prio : BitVec 2) :
    armStep i d dir src dst len circ prio s = .refused (.overlap i d) := by
  simp [armStep, h]

/-- Arm and Trigger of the transmit channel start it or are refused as an overlap (R130, R131, R138). -/
theorem armTrigger_tx_next_or_overlap (i : Unit6) (dir : XferDir) (src dst : Endpoint) (len : Half) (circ : Bool)
    (prio : BitVec 2) (s : State) :
    (∃ t, (armStep i .tx dir src dst len circ prio s).andThen (triggerStep i .tx) = .next t) ∨
    (armStep i .tx dir src dst len circ prio s).andThen (triggerStep i .tx) = .refused (.overlap i .tx) := by
  cases ho : ((s.uart i).ch.get .tx).outstanding with
  | true => right; rw [armStep_overlap ho, Out.andThen_refused]
  | false =>
    left
    have ha : (s.uart i).ch.tx.active = false := by simp_all [Chan.outstanding]
    rw [armStep_free ho, Out.andThen_next, triggerStep_tx_free (by simpa using ha)]
    exact ⟨_, rfl⟩

/-- Arm and Trigger of the receive channel towards a memory address start it or are refused as an overlap: the
receive service inside the trigger finds that address (R122, R131, R133, R138). -/
theorem armTrigger_rx_next_or_overlap (i : Unit6) (dir : XferDir) (src : Endpoint) (base : Word) (len : Half)
    (circ : Bool) (prio : BitVec 2) (s : State) :
    (∃ t, (armStep i .rx dir src (.mem base) len circ prio s).andThen (triggerStep i .rx) = .next t) ∨
    (armStep i .rx dir src (.mem base) len circ prio s).andThen (triggerStep i .rx) = .refused (.overlap i .rx) := by
  cases ho : ((s.uart i).ch.get .rx).outstanding with
  | true => right; rw [armStep_overlap ho, Out.andThen_refused]
  | false =>
    left
    have ha : (s.uart i).ch.rx.active = false := by simp_all [Chan.outstanding]
    rw [armStep_free ho, Out.andThen_next, triggerStep_rx_free (by simpa using ha)]
    exact rxServiceStep_has_next fun _ => ⟨base, by simp [Chan.arm]⟩

/-! ### The foreground's next step -/

/-- The answer of a foreground step at a label: a next state, or at D1 the refusal of an overlap (R27, R138). -/
def Out.NextOrOverlap (p : FgPhase) (o : Out) : Prop :=
  (∃ t, o = .next t) ∨ ∃ i d, o = .refused (.overlap i d) ∧ p = .d1

@[simp] theorem Out.nextOrOverlap_next (p : FgPhase) (t : State) : Out.NextOrOverlap p (.next t) := .inl ⟨t, rfl⟩

theorem Out.nextOrOverlap_ite {p : FgPhase} {c : Prop} [Decidable c] {s t : State} :
    Out.NextOrOverlap p (if c then .next s else .next t) := by
  split
  · exact nextOrOverlap_next p s
  · exact nextOrOverlap_next p t

/-- Label D1: the channel's start, and then the next label. -/
theorem Out.nextOrOverlap_start {o : Out} {i : Unit6} {d : Dir} {k : State → Out}
    (h : (∃ t, o = .next t) ∨ o = .refused (.overlap i d)) (hk : ∀ t, ∃ t', k t = .next t') :
    (o.andThen k).NextOrOverlap .d1 := by
  obtain ⟨t, rfl⟩ | rfl := h
  · exact .inl (hk t)
  · exact .inr ⟨i, d, rfl, rfl⟩

/-- SEND and FSEND have a step at every label of the pseudocode (R121). -/
theorem sendStep_nextOrOverlap {s : State} {name : OpName} {i : Unit6} {len : Half} {buf : Word}
    (h : (s.uart i).SendSound len s.fg.k s.fg.phase) : (sendStep name i len buf s).NextOrOverlap s.fg.phase := by
  unfold sendStep
  cases hp : s.fg.phase <;> rw [hp] at h
  case p1 => dsimp only; split <;> exact Out.nextOrOverlap_next _ _
  case p2 | p3 | d2 => exact Out.nextOrOverlap_ite
  case d1 => exact Out.nextOrOverlap_start (armTrigger_tx_next_or_overlap _ _ _ _ _ _ _ s) fun t => ⟨_, rfl⟩
  case d3 => exact Out.nextOrOverlap_next _ _
  all_goals exact h.elim

/-- RECV has a step at every label of its pseudocode (R122). -/
theorem recvStep_nextOrOverlap {s : State} {i : Unit6} {circ : Bool} {len : Half} {buf : Word}
    (h : (s.uart i).RecvSound circ len s.fg.k s.fg.phase) :
    (recvStep i circ len buf s).NextOrOverlap s.fg.phase := by
  unfold recvStep
  cases hp : s.fg.phase <;> rw [hp] at h
  case p1 | d2 => exact Out.nextOrOverlap_ite
  case p2 =>
    dsimp only
    split
    · exact Out.nextOrOverlap_next _ _
    · exact Out.nextOrOverlap_ite
  case d1 =>
    refine Out.nextOrOverlap_start (armTrigger_rx_next_or_overlap _ _ _ _ _ _ _ s) fun t => ?_
    split <;> exact ⟨_, rfl⟩
  case d3 => exact Out.nextOrOverlap_next _ _
  all_goals exact h.elim

/-- SENDB has a step at every label of its pseudocode (R123). -/
theorem sendbStep_nextOrOverlap {s : State} {i : Unit6} {v : Byte}
    (h : s.fg.phase = .p1 ∨ s.fg.phase = .p2 ∨ s.fg.phase = .p3) :
    (sendbStep i v s).NextOrOverlap s.fg.phase := by
  unfold sendbStep
  obtain hp | hp | hp := h <;> rw [hp]
  · exact Out.nextOrOverlap_next _ _
  · exact Out.nextOrOverlap_ite
  · exact Out.nextOrOverlap_next _ _

/-- RECVB has a step at every label of its pseudocode (R124). -/
theorem recvbStep_nextOrOverlap {s : State} {i : Unit6} (h : s.fg.phase = .p1 ∨ s.fg.phase = .p2) :
    (recvbStep i s).NextOrOverlap s.fg.phase := by
  unfold recvbStep
  obtain hp | hp := h <;> rw [hp]
  · exact Out.nextOrOverlap_ite
  · exact Out.nextOrOverlap_next _ _

/-- FRECV has a step at every label of its pseudocode (R173). -/
theorem frecvStep_nextOrOverlap {s : State} {buf : Word} (h : s.FrecvSound (s.uart s.par.frameUnit) s.fg.phase) :
    (frecvStep buf s).NextOrOverlap s.fg.phase := by
  unfold frecvStep
  cases hp : s.fg.phase <;> rw [hp] at h
  case w1 | w2 => exact Out.nextOrOverlap_ite
  case c1 =>
    dsimp only
    split
    · exact Out.nextOrOverlap_next _ _
    · split
      · exact Out.nextOrOverlap_next _ _
      · exact Out.nextOrOverlap_ite
  case c2 => exact Out.nextOrOverlap_next _ _
  all_goals exact h.elim

/-- An operation in progress at a label of its own pseudocode has its step (R27, R235). -/
theorem FgOp.step_nextOrOverlap {s : State} {op : FgOp} (h : s.FgSound) (hop : s.fg.op = some op) :
    (op.step s).NextOrOverlap s.fg.phase := by
  unfold State.FgSound at h
  rw [hop] at h
  cases op with
  | send i len buf =>
    obtain ⟨-, hsound⟩ := h
    exact sendStep_nextOrOverlap hsound
  | recv i circ len buf =>
    obtain ⟨-, hsound, -⟩ := h
    exact recvStep_nextOrOverlap hsound
  | sendb i v =>
    obtain ⟨-, hlabel⟩ := h
    exact sendbStep_nextOrOverlap hlabel
  | recvb i =>
    obtain ⟨-, hlabel⟩ := h
    exact recvbStep_nextOrOverlap hlabel
  | fsend len buf =>
    obtain ⟨-, hsound⟩ := h
    exact sendStep_nextOrOverlap hsound
  | frecv buf =>
    obtain ⟨-, hsound⟩ := h
    exact frecvStep_nextOrOverlap hsound

/-- Under the invariant the foreground's operation in progress has its step where the foreground may act. -/
theorem foregroundStep_nextOrOverlap {s : State} (hinv : s.Inv) (hm : s.foregroundMayAct = true)
    (hop : s.fg.op ≠ none) : (foregroundStep s).NextOrOverlap s.fg.phase := by
  obtain ⟨op, hop⟩ := Option.ne_none_iff_exists'.mp hop
  rw [foregroundStep_of_op hm hop]
  exact FgOp.step_nextOrOverlap hinv.fg hop

/-! ### The dispatcher's next step -/

/-- Scan(i, k) skips, services or calls, whatever the slot holds (R214 to R217). -/
theorem scanStep_has_next (i : Unit6) (k : EventKind) (s : State) : ∃ t, scanStep i k s = .next t := by
  unfold scanStep
  dsimp only
  split
  · exact ⟨_, rfl⟩
  · split <;> exact ⟨_, rfl⟩

/-- A dispatcher in the framing handler is the framing unit's, FINIT has succeeded, and so its receive channel's
memory side is the window (R176, R216, R171). -/
theorem State.Inv.framing_window {s : State} (hinv : s.Inv) {i : Unit6} {f : FrameStep}
    (hp : (s.uart i).dsp.phase = .frame f) : (s.uart i).ch.rx.dst = .mem s.par.winBase := by
  have hslot : (s.uart i).hslot.get .idle = .frame := ((hinv.dispatch i).framing f hp).1
  obtain rfl : i = s.par.frameUnit := ((hinv.slots i .idle).1 hslot).1
  obtain ⟨-, -, -, hdst, -⟩ := hinv.framing.window (hinv.framing.handler hslot)
  exact hdst

/-- The framing handler always has its next step: F4's receive service finds the window (R181). -/
theorem frameStep_has_next {s : State} {i : Unit6} (hdst : (s.uart i).ch.rx.dst = .mem s.par.winBase)
    (f : FrameStep) : ∃ t, frameStep i f s = .next t := by
  cases f with
  | f4 => exact rxServiceStep_has_next fun _ => ⟨s.par.winBase, by simpa using hdst⟩
  | f0 | f1 | f2 | f3 | f5 => exact ⟨_, rfl⟩

/-- A dispatcher in a scan or in the framing handler always has its next step (R214, R176 to R182). -/
theorem dispatcherStep_has_next {s : State} (hinv : s.Inv) {i : Unit6}
    (h : (∃ k, (s.uart i).dsp.phase = .scan k) ∨ (∃ f, (s.uart i).dsp.phase = .frame f)) :
    ∃ t, dispatcherStep i s = .next t := by
  unfold dispatcherStep
  obtain ⟨k, hp⟩ | ⟨f, hp⟩ := h
  · simp only [hp]
    exact scanStep_has_next i k s
  · simp only [hp]
    exact frameStep_has_next (hinv.framing_window hp) f

/-! ### No step faults -/

/-- The step does not stop with a fault. -/
def Out.Faultless (o : Out) : Prop := ∀ f, o ≠ .fault f

@[simp] theorem Out.faultless_next (t : State) : Out.Faultless (.next t) := nofun
@[simp] theorem Out.faultless_refused (r : Refusal) : Out.Faultless (.refused r) := nofun

theorem Out.faultless_of_next {o : Out} (h : ∃ t, o = .next t) : o.Faultless := by
  obtain ⟨t, rfl⟩ := h
  exact faultless_next t

theorem Out.NextOrOverlap.faultless {p : FgPhase} {o : Out} (h : o.NextOrOverlap p) : o.Faultless := by
  obtain h | ⟨i, d, rfl, -⟩ := h
  · exact faultless_of_next h
  · exact faultless_refused _

theorem acceptForeground_faultless {k : State → Out} (s : State) (h : (k s).Faultless) :
    (acceptForeground s k).Faultless := by
  unfold acceptForeground
  split_ifs
  · exact Out.faultless_refused _
  · exact h
  · exact Out.faultless_refused _
  · exact Out.faultless_refused _
  · exact Out.faultless_refused _

theorem acceptAny_faultless {k : State → Out} (s : State) (h : (k s).Faultless) : (acceptAny s k).Faultless := by
  unfold acceptAny
  split_ifs
  · exact acceptForeground_faultless s h
  · exact h
  · exact Out.faultless_refused _

theorem illegalCommand_faultless (s : State) : (illegalCommand s).Faultless := by
  unfold illegalCommand
  split <;> simp

theorem sendStart_faultless (name : OpName) (op : FgOp) (i : Unit6) (len : Half) (s : State) :
    (sendStart name op i len s).Faultless := by
  unfold sendStart
  dsimp only
  split_ifs <;> exact Out.faultless_next _

theorem recvStart_faultless (i : Unit6) (circ : Bool) (len : Half) (s : State) :
    (recvStart i circ len s).Faultless := by
  unfold recvStart
  dsimp only
  split_ifs <;> exact Out.faultless_next _

/-- FINIT arms its stream towards the window, so its trigger finds a memory address (R171). -/
theorem execFinit_faultless (s : State) : (execFinit s).Faultless := by
  refine acceptForeground_faultless s ?_
  dsimp only
  split
  · exact Out.faultless_refused _
  · exact Out.faultless_next _
  · exact Out.NextOrOverlap.faultless
      (Out.nextOrOverlap_start (armTrigger_rx_next_or_overlap _ _ _ _ _ _ _ _) fun t => ⟨_, rfl⟩)

/-- No presented operation faults. -/
theorem exec_faultless (i : Instr) (s : State) : Out.Faultless (exec i s) := by
  cases i <;> simp only [exec]
  case init n =>
    refine acceptForeground_faultless s ?_
    split
    · exact Out.faultless_next _
    · split <;> simp
  case send n len =>
    refine acceptForeground_faultless s ?_
    split
    · exact Out.faultless_next _
    · exact sendStart_faultless _ _ _ _ s
  case recv n circ len =>
    refine acceptForeground_faultless s ?_
    split
    · exact Out.faultless_next _
    · exact recvStart_faultless _ _ _ s
  case sendb n v =>
    refine acceptForeground_faultless s ?_
    split
    · exact Out.faultless_next _
    · split <;> exact Out.faultless_next _
  case recvb n =>
    refine acceptForeground_faultless s ?_
    split
    · exact Out.faultless_next _
    · split <;> exact Out.faultless_next _
  case seth n sub =>
    unfold execSeth
    split
    · exact illegalCommand_faultless s
    · refine acceptForeground_faultless s ?_
      split <;> exact Out.faultless_next _
  case finit => exact execFinit_faultless s
  case fsend len => exact acceptForeground_faultless s (sendStart_faultless _ _ _ _ s)
  case frecv =>
    refine acceptForeground_faultless s ?_
    split <;> exact Out.faultless_next _
  case solveb => exact acceptForeground_faultless (k := fun s => .next _) s (Out.faultless_next _)
  case solvet => exact acceptForeground_faultless (k := fun s => .next _) s (Out.faultless_next _)
  case rdsr n =>
    refine acceptAny_faultless s ?_
    split <;> exact Out.faultless_next _
  case rddr n =>
    refine acceptAny_faultless s ?_
    split <;> exact Out.faultless_next _
  case wrdr n v =>
    refine acceptAny_faultless s ?_
    split <;> exact Out.faultless_next _
  case hret n =>
    refine acceptAny_faultless s ?_
    split
    · exact Out.faultless_next _
    · split <;> exact Out.faultless_next _

/-- TxMove finds an address at an active transmit stream's memory side (R47, R134). -/
theorem txMoveStep_faultless {s : State} {i : Unit6} (h : (s.uart i).ChannelsSound i) :
    (txMoveStep i s).Faultless := by
  unfold txMoveStep
  dsimp only
  split
  · next hg =>
    simp only [Bool.and_eq_true] at hg
    obtain ⟨-, -, -, base, hsrc⟩ := h.tx.descriptor hg.1.1.2
    rw [hsrc]
    dsimp only
    split <;> exact Out.faultless_next _
  · exact Out.faultless_refused _

/-- A byte that arrives finds an address at an active receive stream's memory side (R47, R197). -/
theorem rxByteStep_faultless {s : State} {i : Unit6} (b : Byte) (h : (s.uart i).ChannelsSound i) :
    (rxByteStep i b s).Faultless := by
  unfold rxByteStep
  dsimp only
  split_ifs
  · exact Out.faultless_refused _
  · exact Out.faultless_next _
  · refine Out.faultless_of_next (rxServiceStep_has_next fun ha => ?_)
    simp only [State.uart_setUart_same] at ha ⊢
    obtain ⟨-, -, -, hdst⟩ := h.rx.descriptor ha
    exact hdst

theorem dispatcherStep_faultless {s : State} (hinv : s.Inv) (i : Unit6) : (dispatcherStep i s).Faultless := by
  cases hp : (s.uart i).dsp.phase with
  | idle =>
    simp only [dispatcherStep, hp]
    split <;> simp
  | scan k => exact Out.faultless_of_next (dispatcherStep_has_next hinv (.inl ⟨k, hp⟩))
  | inHandler k => simp [dispatcherStep, hp]
  | frame f => exact Out.faultless_of_next (dispatcherStep_has_next hinv (.inr ⟨f, hp⟩))

theorem foregroundStep_faultless {s : State} (hinv : s.Inv) : (foregroundStep s).Faultless := by
  by_cases hm : s.foregroundMayAct = true
  · by_cases hop : s.fg.op = none
    · simp [foregroundStep, hm, hop, noForegroundStep]
    · exact (foregroundStep_nextOrOverlap hinv hm hop).faultless
  · simp [foregroundStep, hm, noForegroundStep]

/-- Under the invariant no move of any agent faults. -/
theorem agentStep_faultless {s : State} (hinv : s.Inv) (m : Move) : (agentStep m s).Faultless := by
  cases m with
  | hostStore a b =>
    simp only [agentStep, hostStoreStep]
    split
    · split <;> exact Out.faultless_next _
    · exact Out.faultless_refused _
  | hostCommand w =>
    simp only [agentStep, presentCommand]
    split
    · exact exec_faultless _ _
    · exact illegalCommand_faultless _
  | foreground => exact foregroundStep_faultless hinv
  | dispatcher i => exact dispatcherStep_faultless hinv i
  | txMove i => exact txMoveStep_faultless (hinv.channels i)
  | rxByte i b => exact rxByteStep_faultless b (hinv.channels i)
  | hostOperand _ _ | dmaDone _ _ | idleEvent _ | txShift _ | ctsEvent _ | breakEvent _ | parityEvent _ =>
    simp only [agentStep, hostOperandStep, dmaDoneStep, idleEventStep, txShiftStep, ctsEventStep, breakEventStep,
      parityEventStep, notEnabled]
    split <;> simp

/-- The invariant says nothing of the schedule. -/
theorem State.Inv.with_sched {s : State} (h : s.Inv) (ms : List Move) : State.Inv { s with sched := ms } :=
  { h with framing := { h.framing with }, faults := { h.faults with } }

theorem step_faultless {s : State} (hinv : s.Inv) : Out.Faultless (step s) := by
  unfold step
  split
  · exact Out.faultless_next s
  · exact agentStep_faultless (hinv.with_sched _) _

/-- Settles O57: the invariant puts the foreground at a label of its own pseudocode and a dispatcher in a scan or at
the framing unit, and gives every active stream the address its next move goes to. -/
theorem stepsAreAvailableAndNoneFaults : Obligations.StepsAreAvailableAndNoneFaults := by
  intro s hinv
  exact ⟨foregroundStep_nextOrOverlap hinv, fun i => dispatcherStep_has_next hinv, step_faultless hinv⟩

end Sys2Proof.Machine
end

section
/-! PROOFS. The schedule is neither read nor written by a move (R15, R19; log entry 3): each part of a move, made in a
state with another schedule, answers what it answers in the state itself, with that other schedule. -/

namespace Sys2Proof.Machine

/-- The state with another schedule. -/
def State.reschedule (s : State) (ms : List Move) : State := { s with sched := ms }

/-- The answer of a step with another schedule in its next state. -/
def Out.reschedule (o : Out) (ms : List Move) : Out := o.andThen fun t => .next (t.reschedule ms)

section
variable (s : State) (ms : List Move)

@[simp] theorem State.reschedule_par : (s.reschedule ms).par = s.par := rfl
@[simp] theorem State.reschedule_a : (s.reschedule ms).a = s.a := rfl
@[simp] theorem State.reschedule_fg : (s.reschedule ms).fg = s.fg := rfl
@[simp] theorem State.reschedule_frame : (s.reschedule ms).frame = s.frame := rfl
@[simp] theorem State.reschedule_mem : (s.reschedule ms).mem = s.mem := rfl
@[simp] theorem State.reschedule_uart (i : Unit6) : (s.reschedule ms).uart i = s.uart i := rfl
@[simp] theorem State.reschedule_allIdle : (s.reschedule ms).allIdle = s.allIdle := rfl
@[simp] theorem State.reschedule_someHandler : (s.reschedule ms).someHandler = s.someHandler := rfl
@[simp] theorem State.reschedule_foregroundMayAct :
    (s.reschedule ms).foregroundMayAct = s.foregroundMayAct := rfl
@[simp] theorem State.reschedule_handlerMayAct : (s.reschedule ms).handlerMayAct = s.handlerMayAct := rfl
@[simp] theorem State.reschedule_hostMayAct : (s.reschedule ms).hostMayAct = s.hostMayAct := rfl
@[simp] theorem State.reschedule_setUart (i : Unit6) (u : Uart) :
    (s.reschedule ms).setUart i u = (s.setUart i u).reschedule ms := rfl
@[simp] theorem State.reschedule_emit (e : Ev) : (s.reschedule ms).emit e = (s.emit e).reschedule ms := rfl
@[simp] theorem State.reschedule_stickHost (f : BusFault) :
    (s.reschedule ms).stickHost f = (s.stickHost f).reschedule ms := by
  cases h : s.allIdle <;> simp [State.stickHost, h] <;> rfl

@[simp] theorem Out.reschedule_next : Out.reschedule (.next s) ms = .next (s.reschedule ms) := rfl
@[simp] theorem Out.reschedule_fault (f : Fault) : Out.reschedule (.fault f) ms = .fault f := rfl
@[simp] theorem Out.reschedule_refused (r : Refusal) : Out.reschedule (.refused r) ms = .refused r := rfl

@[simp] theorem Out.reschedule_ite (c : Prop) [Decidable c] (o p : Out) :
    Out.reschedule (if c then o else p) ms = if c then o.reschedule ms else p.reschedule ms := by
  split <;> rfl

end

/-- A part of a move that neither reads nor writes the schedule. -/
def ScheduleFree (k : State → Out) : Prop := ∀ s ms, k (s.reschedule ms) = (k s).reschedule ms

theorem ScheduleFree.andThen {j k : State → Out} (hj : ScheduleFree j) (hk : ScheduleFree k) :
    ScheduleFree fun s => (j s).andThen k := by
  intro s ms
  dsimp only
  rw [hj s ms]
  cases j s with
  | next t => exact hk t ms
  | fault f => rfl
  | refused r => rfl

theorem ScheduleFree.acceptForeground {k : State → Out} (hk : ScheduleFree k) :
    ScheduleFree fun s => acceptForeground s k := by
  intro s ms
  simp only [Machine.acceptForeground, hk s ms, Out.reschedule_ite]
  rfl

theorem ScheduleFree.acceptAny {k : State → Out} (hk : ScheduleFree k) :
    ScheduleFree fun s => acceptAny s k := by
  intro s ms
  simp only [Machine.acceptAny, hk s ms, hk.acceptForeground s ms, Out.reschedule_ite]
  rfl

theorem illegalCommand_scheduleFree : ScheduleFree illegalCommand := by
  intro s ms
  simp only [illegalCommand, Out.reschedule_ite]
  rfl

theorem rxServiceStep_scheduleFree (i : Unit6) : ScheduleFree (rxServiceStep i) := by
  intro s ms
  simp only [rxServiceStep, State.reschedule_par, State.reschedule_uart, State.reschedule_mem]
  cases rxService s.par i (s.uart i) s.mem <;> rfl

theorem armStep_scheduleFree (i : Unit6) (d : Dir) (dir : XferDir) (src dst : Endpoint) (len : Half) (circ : Bool)
    (prio : BitVec 2) : ScheduleFree (armStep i d dir src dst len circ prio) := by
  intro s ms
  simp only [armStep, Out.reschedule_ite]
  rfl

theorem triggerStep_scheduleFree (i : Unit6) (d : Dir) : ScheduleFree (triggerStep i d) := by
  intro s ms
  simp only [triggerStep, State.reschedule_uart, State.reschedule_setUart, State.reschedule_emit, Out.reschedule_ite]
  cases d with
  | rx => simp only [rxServiceStep_scheduleFree i _ ms, Out.reschedule_refused]
  | tx => rfl

theorem armTrigger_scheduleFree (i : Unit6) (d : Dir) (dir : XferDir) (src dst : Endpoint) (len : Half) (circ : Bool)
    (prio : BitVec 2) :
    ScheduleFree fun s => (armStep i d dir src dst len circ prio s).andThen (triggerStep i d) :=
  ScheduleFree.andThen (armStep_scheduleFree i d dir src dst len circ prio) (triggerStep_scheduleFree i d)

/-! ### The foreground -/

theorem sendStep_scheduleFree (name : OpName) (i : Unit6) (len : Half) (buf : Word) :
    ScheduleFree (sendStep name i len buf) := by
  intro s ms
  simp only [sendStep, State.reschedule_par, State.reschedule_uart, State.reschedule_mem, State.reschedule_fg]
  cases s.fg.phase
  case p1 => cases memRead s.par s.mem (byteAddr buf s.fg.k) <;> rfl
  case p2 | p3 | d2 => simp only [Out.reschedule_ite]; rfl
  case d1 =>
    exact ScheduleFree.andThen (k := fun t => .next (t.goto .d2))
      (armTrigger_scheduleFree i .tx _ _ _ _ _ _) (fun _ _ => rfl) s ms
  all_goals rfl

theorem recvStep_scheduleFree (i : Unit6) (circ : Bool) (len : Half) (buf : Word) :
    ScheduleFree (recvStep i circ len buf) := by
  intro s ms
  simp only [recvStep, State.reschedule_par, State.reschedule_uart, State.reschedule_mem, State.reschedule_fg]
  cases s.fg.phase
  case p1 | d2 => simp only [Out.reschedule_ite]; rfl
  case p2 =>
    cases memWrite s.par s.mem (byteAddr buf s.fg.k) (s.uart i).rdr
    · rfl
    · simp only [Out.reschedule_ite]; rfl
  case d1 =>
    refine ScheduleFree.andThen (k := fun t => if circ then .next (t.endFg .recv 0#32) else .next (t.goto .d2))
      (armTrigger_scheduleFree i .rx _ _ _ _ _ _) (fun t ms => ?_) s ms
    cases circ <;> rfl
  all_goals rfl

theorem sendbStep_scheduleFree (i : Unit6) (v : Byte) : ScheduleFree (sendbStep i v) := by
  intro s ms
  simp only [sendbStep, State.reschedule_uart, State.reschedule_fg]
  cases s.fg.phase
  case p2 => simp only [Out.reschedule_ite]; rfl
  all_goals rfl

theorem recvbStep_scheduleFree (i : Unit6) : ScheduleFree (recvbStep i) := by
  intro s ms
  simp only [recvbStep, State.reschedule_uart, State.reschedule_fg]
  cases s.fg.phase
  case p1 => simp only [Out.reschedule_ite]; rfl
  all_goals rfl

theorem frecvStep_scheduleFree (buf : Word) : ScheduleFree (frecvStep buf) := by
  intro s ms
  simp only [frecvStep, State.reschedule_par, State.reschedule_uart, State.reschedule_mem, State.reschedule_fg]
  cases s.fg.phase
  case w1 | w2 => simp only [Out.reschedule_ite]; rfl
  case c1 =>
    cases memRead s.par s.mem (byteAddr s.par.winBase s.fg.k) with
    | error f => rfl
    | ok b =>
      dsimp only
      cases memWrite s.par s.mem (byteAddr buf s.fg.k) b with
      | error f => rfl
      | ok m => simp only [Out.reschedule_ite]; rfl
  all_goals rfl

theorem FgOp.step_scheduleFree (op : FgOp) : ScheduleFree fun s => op.step s := by
  intro s ms
  cases op with
  | send i len buf => exact sendStep_scheduleFree .send i len buf s ms
  | recv i circ len buf => exact recvStep_scheduleFree i circ len buf s ms
  | sendb i v => exact sendbStep_scheduleFree i v s ms
  | recvb i => exact recvbStep_scheduleFree i s ms
  | fsend len buf => exact sendStep_scheduleFree .fsend s.par.frameUnit len buf s ms
  | frecv buf => exact frecvStep_scheduleFree buf s ms

theorem foregroundStep_scheduleFree : ScheduleFree foregroundStep := by
  intro s ms
  by_cases hm : s.foregroundMayAct = true
  · cases hop : s.fg.op with
    | none => simp [foregroundStep, hm, hop, noForegroundStep]
    | some op =>
      rw [foregroundStep_of_op hm hop, foregroundStep_of_op (s := s.reschedule ms) hm hop]
      exact op.step_scheduleFree s ms
  · simp [foregroundStep, hm, noForegroundStep]

/-! ### The dispatcher -/

theorem scanStep_scheduleFree (i : Unit6) (k : EventKind) : ScheduleFree (scanStep i k) := by
  intro s ms
  simp only [scanStep, State.reschedule_uart, Out.reschedule_ite]
  cases (s.uart i).hslot.get k <;> rfl

theorem frameStep_scheduleFree (i : Unit6) (f : FrameStep) : ScheduleFree (frameStep i f) := by
  intro s ms
  cases f with
  | f4 => simp only [frameStep, State.reschedule_uart, State.reschedule_setUart, rxServiceStep_scheduleFree i _ ms]
  | f0 | f1 | f2 | f3 | f5 => rfl

theorem dispatcherStep_scheduleFree (i : Unit6) : ScheduleFree (dispatcherStep i) := by
  intro s ms
  simp only [dispatcherStep, State.reschedule_uart]
  cases (s.uart i).dsp.phase with
  | idle => simp only [Out.reschedule_ite]; rfl
  | scan k => exact scanStep_scheduleFree i k s ms
  | inHandler k => rfl
  | frame f => exact frameStep_scheduleFree i f s ms

/-! ### The presented operations -/

theorem sendStart_scheduleFree (name : OpName) (op : FgOp) (i : Unit6) (len : Half) :
    ScheduleFree (sendStart name op i len) := by
  intro s ms
  simp only [sendStart, Out.reschedule_ite]
  rfl

theorem recvStart_scheduleFree (i : Unit6) (circ : Bool) (len : Half) : ScheduleFree (recvStart i circ len) := by
  intro s ms
  simp only [recvStart, Out.reschedule_ite]
  rfl

theorem execFinit_scheduleFree : ScheduleFree execFinit := by
  refine ScheduleFree.acceptForeground fun s ms => ?_
  simp only [State.reschedule_par, State.reschedule_a, State.reschedule_uart]
  cases bindUart s.par s.par.frameUnit s.a.q0 framingOptions (s.uart s.par.frameUnit) with
  | alreadyBound => rfl
  | configError => rfl
  | bound u =>
    dsimp only
    exact ScheduleFree.andThen (k := fun t => .next (t.ret .finit 0#32))
      (armTrigger_scheduleFree _ .rx _ _ _ _ _ _) (fun _ _ => rfl)
      { s.setUart s.par.frameUnit ((u.setSlot .idle .frame).setSig .rx false) with frame := ⟨true, .armed, 0#16⟩ } ms

theorem exec_scheduleFree (i : Instr) : ScheduleFree (exec i) := by
  cases i with
  | init n =>
    refine ScheduleFree.acceptForeground fun s ms => ?_
    cases unitOf n with
    | none => rfl
    | some i =>
      simp only [State.reschedule_par, State.reschedule_a, State.reschedule_uart]
      cases bindUart s.par i s.a.q0 s.a.q1 (s.uart i) <;> rfl
  | send n len =>
    refine ScheduleFree.acceptForeground fun s ms => ?_
    cases unitOf n with
    | none => rfl
    | some i => exact sendStart_scheduleFree _ _ i len s ms
  | recv n circ len =>
    refine ScheduleFree.acceptForeground fun s ms => ?_
    cases unitOf n with
    | none => rfl
    | some i => exact recvStart_scheduleFree i circ len s ms
  | sendb n v =>
    refine ScheduleFree.acceptForeground fun s ms => ?_
    cases unitOf n with
    | none => rfl
    | some i => simp only [Out.reschedule_ite]; rfl
  | recvb n =>
    refine ScheduleFree.acceptForeground fun s ms => ?_
    cases unitOf n with
    | none => rfl
    | some i => simp only [Out.reschedule_ite]; rfl
  | seth n sub =>
    intro s ms
    simp only [exec, execSeth]
    cases kindOf sub with
    | none => exact illegalCommand_scheduleFree s ms
    | some k =>
      refine ScheduleFree.acceptForeground (fun s ms => ?_) s ms
      cases unitOf n <;> rfl
  | finit => exact execFinit_scheduleFree
  | fsend len =>
    exact ScheduleFree.acceptForeground fun s ms => sendStart_scheduleFree _ _ s.par.frameUnit len s ms
  | frecv =>
    refine ScheduleFree.acceptForeground fun s ms => ?_
    simp only [Out.reschedule_ite]
    rfl
  | solveb => exact ScheduleFree.acceptForeground fun s ms => rfl
  | solvet => exact ScheduleFree.acceptForeground fun s ms => rfl
  | rdsr n =>
    refine ScheduleFree.acceptAny fun s ms => ?_
    cases unitOf n <;> rfl
  | rddr n =>
    refine ScheduleFree.acceptAny fun s ms => ?_
    cases unitOf n <;> rfl
  | wrdr n v =>
    refine ScheduleFree.acceptAny fun s ms => ?_
    cases unitOf n <;> rfl
  | hret n =>
    refine ScheduleFree.acceptAny fun s ms => ?_
    cases unitOf n with
    | none => rfl
    | some i =>
      simp only [State.reschedule_uart]
      cases (s.uart i).dsp.phase <;> rfl

theorem presentCommand_scheduleFree (w : Word) : ScheduleFree (presentCommand w) := by
  intro s ms
  simp only [presentCommand]
  cases decode w with
  | legal i => exact exec_scheduleFree i { s with cmd := w } ms
  | illegal why => exact illegalCommand_scheduleFree { s with cmd := w } ms

/-! ### The other agents, and all moves together -/

theorem txMoveStep_scheduleFree (i : Unit6) : ScheduleFree (txMoveStep i) := by
  intro s ms
  simp only [txMoveStep, State.reschedule_par, State.reschedule_uart, State.reschedule_mem, Out.reschedule_ite]
  cases (s.uart i).ch.tx.src with
  | dr j => rfl
  | mem base =>
    dsimp only
    cases memRead s.par s.mem (byteAddr base (s.uart i).ch.tx.off) <;> rfl

theorem rxByteStep_scheduleFree (i : Unit6) (b : Byte) : ScheduleFree (rxByteStep i b) := by
  intro s ms
  simp only [rxByteStep, State.reschedule_uart, State.reschedule_setUart, rxServiceStep_scheduleFree i _ ms,
    Out.reschedule_ite]
  rfl

theorem hostStoreStep_scheduleFree (a : Word) (b : Byte) : ScheduleFree (hostStoreStep a b) := by
  intro s ms
  simp only [hostStoreStep, State.reschedule_par, State.reschedule_mem, Out.reschedule_ite]
  cases memWrite s.par s.mem a b with
  | error f => simp only [State.reschedule_stickHost, Out.reschedule_next]; rfl
  | ok m => rfl

/-- No move of any agent reads or writes the schedule. -/
theorem agentStep_scheduleFree (m : Move) : ScheduleFree (agentStep m) := by
  cases m with
  | hostStore a b => exact hostStoreStep_scheduleFree a b
  | hostCommand w => exact presentCommand_scheduleFree w
  | foreground => exact foregroundStep_scheduleFree
  | dispatcher i => exact dispatcherStep_scheduleFree i
  | txMove i => exact txMoveStep_scheduleFree i
  | rxByte i b => exact rxByteStep_scheduleFree i b
  | hostOperand _ _ | dmaDone _ _ | idleEvent _ | txShift _ | ctsEvent _ | breakEvent _ | parityEvent _ =>
    intro s ms
    simp only [agentStep, hostOperandStep, dmaDoneStep, idleEventStep, txShiftStep, ctsEventStep, breakEventStep,
      parityEventStep, Out.reschedule_ite]
    rfl

/-! ### Running a schedule -/

/-- A step with a move scheduled makes that move and leaves the rest of the schedule. -/
theorem step_reschedule_cons (m : Move) (ms : List Move) (s : State) :
    step (s.reschedule (m :: ms)) = (agentStep m s).reschedule ms :=
  agentStep_scheduleFree m s ms

theorem run_succ (k : Nat) (s : State) :
    Host.Core.run Sys2Proof.core (k + 1) s = Out.andThen (step s) (Host.Core.run Sys2Proof.core k) := by
  simp only [Host.Core.run, Host.Check.core_step]
  cases step s <;> rfl

/-- A run of a schedule's length makes its moves, and the schedule is empty at the end. -/
theorem run_reschedule (ms : List Move) (s : State) :
    Host.Core.run Sys2Proof.core ms.length (s.reschedule ms) = (runMoves ms s).reschedule [] := by
  induction ms generalizing s with
  | nil => rfl
  | cons m ms ih =>
    rw [List.length_cons, run_succ, step_reschedule_cons, runMoves_cons]
    cases agentStep m s with
    | next t => exact ih t
    | fault f => rfl
    | refused r => rfl

theorem runMoves_scheduleFree (ms : List Move) : ScheduleFree (runMoves ms) := by
  induction ms with
  | nil => exact fun _ _ => rfl
  | cons m ms ih => exact (agentStep_scheduleFree m).andThen ih

/-- Settles O7: one step makes the schedule's first move, and no move touches the schedule. -/
theorem runningAScheduleIsMakingItsMoves : Obligations.RunningAScheduleIsMakingItsMoves := by
  intro ms s
  exact (run_reschedule ms s).trans (runMoves_scheduleFree ms s []).symm

end Sys2Proof.Machine
end

section
/-! PROOFS. Isolation (R54): a step of a dispatcher, channel or line agent of a unit, taken in two states that agree on
the parameters, memory and that unit, ends in the same way, and where it is a step it makes the same writes in both. -/

namespace Sys2Proof.Machine

/-- The writes of a step of unit i's agents: the unit, memory, the change of FRAME, and the events (R54). -/
structure UnitEffect where
  uart  : Uart
  mem   : Memory
  frame : FrameRec → FrameRec
  evs   : List Ev

/-- FRAME with a frame of a length captured, the framing handler's last write (R182). -/
def FrameRec.capture (len : Half) (f : FrameRec) : FrameRec := { f with state := .frameCaptured, len := len }

/-- A state after the writes of a step of unit i's agents. -/
def UnitEffect.apply (e : UnitEffect) (i : Unit6) (s : State) : State :=
  { s.setUart i e.uart with mem := e.mem, frame := e.frame s.frame, trace := s.trace ++ e.evs }

/-- Two states agree on what unit i's agents read: the parameters, memory and the unit. -/
structure State.AgreesOn (s s' : State) (i : Unit6) : Prop where
  par  : s'.par = s.par
  mem  : s'.mem = s.mem
  uart : s'.uart i = s.uart i

/-- FRAME's change in a step of unit i's agents: none but in the framing handler's last step (R182). -/
def UnitEffect.FrameChange (e : UnitEffect) (u : Uart) : Prop :=
  e.frame = id ∨ (u.dsp.phase = .frame .f5 ∧ e.frame = FrameRec.capture u.dsp.flen)

/-- The answers of one step in two states are the same: the same writes, or the same refusal or fault. -/
inductive SameEffect (i : Unit6) (s s' : State) : Out → Out → Prop where
  | next (e : UnitEffect) (hf : e.FrameChange (s.uart i)) :
      SameEffect i s s' (.next (e.apply i s)) (.next (e.apply i s'))
  | fault (f : Fault) : SameEffect i s s' (.fault f) (.fault f)
  | refused (r : Refusal) : SameEffect i s s' (.refused r) (.refused r)

section
variable {i : Unit6} {s s' : State}

theorem SameEffect.setUart (ha : s.AgreesOn s' i) (u : Uart) :
    SameEffect i s s' (.next (s.setUart i u)) (.next (s'.setUart i u)) := by
  have h := SameEffect.next (i := i) (s := s) (s' := s') ⟨u, s.mem, id, []⟩ (.inl rfl)
  simpa [UnitEffect.apply, State.setUart, ← ha.mem] using h

theorem SameEffect.setUart_emit (ha : s.AgreesOn s' i) (u : Uart) (ev : Ev) :
    SameEffect i s s' (.next ((s.setUart i u).emit ev)) (.next ((s'.setUart i u).emit ev)) := by
  have h := SameEffect.next (i := i) (s := s) (s' := s') ⟨u, s.mem, id, [ev]⟩ (.inl rfl)
  simpa [UnitEffect.apply, State.setUart, State.emit, ← ha.mem] using h

theorem SameEffect.setUart_mem (u : Uart) (m : Memory) :
    SameEffect i s s' (.next { s.setUart i u with mem := m }) (.next { s'.setUart i u with mem := m }) := by
  have h := SameEffect.next (i := i) (s := s) (s' := s') ⟨u, m, id, []⟩ (.inl rfl)
  simpa [UnitEffect.apply, State.setUart] using h

theorem SameEffect.setUart_capture (ha : s.AgreesOn s' i) (u : Uart) (hp : (s.uart i).dsp.phase = .frame .f5) :
    SameEffect i s s' (.next { s.setUart i u with frame := s.frame.capture (s.uart i).dsp.flen })
      (.next { s'.setUart i u with frame := s'.frame.capture (s.uart i).dsp.flen }) := by
  have h := SameEffect.next (i := i) (s := s) (s' := s') ⟨u, s.mem, .capture (s.uart i).dsp.flen, []⟩ (.inr ⟨hp, rfl⟩)
  simpa [UnitEffect.apply, State.setUart, ← ha.mem] using h

/-- The receive service of a step that has changed its unit already (R133). -/
theorem SameEffect.rxServiceStep (ha : s.AgreesOn s' i) (u : Uart) :
    SameEffect i s s' (rxServiceStep i (s.setUart i u)) (rxServiceStep i (s'.setUart i u)) := by
  simp only [Machine.rxServiceStep, State.setUart_par, State.setUart_mem, State.uart_setUart_same, ha.par, ha.mem]
  cases rxService s.par i u s.mem with
  | error f => exact .fault f
  | ok r =>
    obtain ⟨v, m⟩ := r
    simpa only [State.setUart_setUart, State.setUart_par, ha.par] using
      SameEffect.setUart_mem (i := i) (s := s) (s' := s') v m

theorem scanStep_sameEffect (ha : s.AgreesOn s' i) (k : EventKind) :
    SameEffect i s s' (scanStep i k s) (scanStep i k s') := by
  simp only [scanStep, ha.uart]
  split
  · exact .setUart ha _
  · cases (s.uart i).hslot.get k with
    | empty => exact .setUart ha _
    | frame => exact .setUart ha _
    | ext h => exact .setUart_emit ha _ _

theorem frameStep_sameEffect (ha : s.AgreesOn s' i) {f : FrameStep} (hp : (s.uart i).dsp.phase = .frame f) :
    SameEffect i s s' (frameStep i f s) (frameStep i f s') := by
  cases f <;> simp only [frameStep, ha.uart, ha.par]
  case f4 => exact .rxServiceStep ha _
  case f5 => exact .setUart_capture ha _ hp
  all_goals exact .setUart ha _

theorem dispatcherStep_sameEffect (ha : s.AgreesOn s' i) :
    SameEffect i s s' (dispatcherStep i s) (dispatcherStep i s') := by
  simp only [dispatcherStep, ha.uart]
  cases hp : (s.uart i).dsp.phase with
  | idle =>
    dsimp only
    split
    · exact .setUart ha _
    · exact .refused _
  | scan k => exact scanStep_sameEffect ha k
  | inHandler k => exact .refused _
  | frame f => exact frameStep_sameEffect ha hp

theorem txMoveStep_sameEffect (ha : s.AgreesOn s' i) : SameEffect i s s' (txMoveStep i s) (txMoveStep i s') := by
  simp only [txMoveStep, ha.uart, ha.par, ha.mem]
  split
  · cases (s.uart i).ch.tx.src with
    | dr j => exact .fault _
    | mem base =>
      dsimp only
      cases memRead s.par s.mem (byteAddr base (s.uart i).ch.tx.off) <;> exact .setUart ha _
  · exact .refused _

theorem rxByteStep_sameEffect (ha : s.AgreesOn s' i) (b : Byte) :
    SameEffect i s s' (rxByteStep i b s) (rxByteStep i b s') := by
  simp only [rxByteStep, ha.uart]
  split
  · exact .refused _
  · split
    · exact .setUart ha _
    · exact .rxServiceStep ha _

/-- R54's two-run form for every agent of a unit. -/
theorem agentStep_sameEffect (ha : s.AgreesOn s' i) {m : Move} (hm : m.unit = some i) :
    SameEffect i s s' (agentStep m s) (agentStep m s') := by
  cases m <;> cases hm
  case dispatcher => exact dispatcherStep_sameEffect ha
  case txMove => exact txMoveStep_sameEffect ha
  case rxByte b => exact rxByteStep_sameEffect ha b
  case txShift =>
    simp only [agentStep, txShiftStep, ha.uart]
    split
    · exact .setUart_emit ha _ _
    · exact .refused _
  all_goals
    simp only [agentStep, dmaDoneStep, idleEventStep, ctsEventStep, breakEventStep, parityEventStep, ha.uart]
    split
    · exact .setUart ha _
    · exact .refused _

end

theorem State.AgreesOn.refl (s : State) (i : Unit6) : s.AgreesOn s i := ⟨rfl, rfl, rfl⟩

/-- A step of unit i's agents in two states that agree: the writes it makes in the first it makes in the second. -/
theorem unitMove_effect {s s' t : State} {m : Move} {i : Unit6} (ha : s.AgreesOn s' i) (hm : m.unit = some i)
    (h : agentStep m s = .next t) :
    ∃ e : UnitEffect, t = e.apply i s ∧ agentStep m s' = .next (e.apply i s') ∧
      e.FrameChange (s.uart i) := by
  have hs := agentStep_sameEffect ha hm
  generalize agentStep m s' = o' at hs ⊢
  rw [h] at hs
  cases hs with
  | next e hf => exact ⟨e, rfl, rfl, hf⟩

/-- A dispatcher in the framing handler is the framing unit's (R176, R216). -/
theorem State.Inv.framing_unit {s : State} (hinv : s.Inv) {i : Unit6} {f : FrameStep}
    (hp : (s.uart i).dsp.phase = .frame f) : i = s.par.frameUnit := by
  obtain ⟨hslot, -⟩ := (hinv.dispatch i).framing f hp
  exact ((hinv.slots i .idle).1 hslot).1

/-- Settles O47: the step makes the same writes in both states, to the unit, memory, FRAME and the trace alone. -/
theorem unitAgentsAreIsolated : Obligations.UnitAgentsAreIsolated := by
  intro s s' t m i hinv hm h
  have hframe : ∀ {e : UnitEffect}, e.FrameChange (s.uart i) → i ≠ s.par.frameUnit → e.frame = id :=
    fun he hi => he.resolve_right fun hp => hi (hinv.framing_unit hp.1)
  refine ⟨?_, fun hpar hmem huart hfr => ?_⟩
  · obtain ⟨e, rfl, -, he⟩ := unitMove_effect (.refl s i) hm h
    exact ⟨fun j hj => State.uart_setUart_ne s e.uart hj, fun hi => by simp [UnitEffect.apply, hframe he hi],
      rfl, rfl, rfl, rfl, rfl, rfl, rfl, rfl⟩
  · obtain ⟨e, rfl, h', -⟩ := unitMove_effect ⟨hpar, hmem, huart⟩ hm h
    exact ⟨_, e.evs, h', by simp [UnitEffect.apply, State.uart], rfl, fun hi => congrArg e.frame (hfr hi), rfl, rfl⟩

end Sys2Proof.Machine
end

section
/-! PROOFS. Where a move stores (R55, R62): at most one byte, at the address its rule gives. -/

namespace Sys2Proof.Machine

/-- A memory is another after at most one store, at the address named, and is the same where none is named. -/
def Memory.Stored (m : Memory) (a : Option Word) (m' : Memory) : Prop :=
  m' = m ∨ ∃ x v, a = some x ∧ m' = m.write x.toNat v

theorem Memory.Stored.refl (m : Memory) (a : Option Word) : m.Stored a m := .inl rfl

theorem Memory.Stored.of_memWrite {p : Params} {m m' : Memory} {a : Word} {v : Byte}
    (h : memWrite p m a v = .ok m') : m.Stored (some a) m' :=
  .inr ⟨a, v, rfl, (memWrite_ok h).2⟩

/-- At most one store keeps the canonical form. -/
theorem Memory.Stored.wf {m m' : Memory} {a : Option Word} (h : m.Stored a m') (hm : m.wf) : m'.wf := by
  obtain rfl | ⟨x, v, -, rfl⟩ := h
  · exact hm
  · exact Memory.wf_write hm x.isLt v

/-- Every address but the one named reads as before. -/
theorem Memory.Stored.read_ne {m m' : Memory} {a : Option Word} (h : m.Stored a m') (hm : m.wf) {x : Word}
    (hx : a ≠ some x) : m'.read x.toNat = m.read x.toNat := by
  obtain rfl | ⟨y, v, rfl, rfl⟩ := h
  · rfl
  · exact Memory.read_write_ne hm v fun hxy => hx (congrArg some (BitVec.eq_of_toNat_eq hxy).symm)

/-! ### The receive service -/

/-- Where the receive service takes a byte, it stores to the stream's next address (R133). -/
theorem Uart.serviceAddress_of_takes {u : Uart} {base : Word} (h : u.rxTakes = true) (hd : u.ch.rx.dst = .mem base) :
    u.serviceAddress = some (byteAddr base u.ch.rx.off) := by
  unfold Uart.serviceAddress
  rw [if_pos (by simpa [Uart.rxTakes] using h), hd]

/-- A stream just started stores a waiting byte as byte 0 of its buffer (R131, R133). -/
theorem Uart.started_serviceAddress (u : Uart) (dir : XferDir) (src : Endpoint) (buf : Word) (len : Half) (circ : Bool)
    (prio : BitVec 2) : (u.started .rx dir src (.mem buf) len circ prio).serviceAddress =
      if u.dmaRx = true ∧ flag u.sr .rxr = true ∧ u.chStuck .rx = false then some (byteAddr buf 0#16) else none := by
  simp [Uart.serviceAddress, Uart.started, Uart.dmaRx, Uart.chStuck, Chan.arm, and_assoc]

/-- The receive service stores at most the waiting byte, at the stream's next address (R133). -/
theorem rxServiceStep_stored {i : Unit6} {s t : State} (h : rxServiceStep i s = .next t) :
    s.mem.Stored (s.uart i).serviceAddress t.mem := by
  obtain ⟨u, m, hr, rfl⟩ := rxServiceStep_next h
  obtain ⟨-, -, rfl⟩ | ⟨ht, base, hd, hw, -⟩ | ⟨-, base, -, -, rfl, -⟩ := rxService_ok hr
  · exact .refl _ _
  · rw [Uart.serviceAddress_of_takes ht hd]
    exact .of_memWrite hw
  · exact .refl _ _

/-- The start of a receive stream stores what its receive service does (R131). -/
theorem armTrigger_rx_stored {i : Unit6} {dir : XferDir} {src dst : Endpoint} {len : Half} {circ : Bool}
    {prio : BitVec 2} {s t : State}
    (h : (armStep i .rx dir src dst len circ prio s).andThen (triggerStep i .rx) = .next t) :
    s.mem.Stored ((s.uart i).started .rx dir src dst len circ prio).serviceAddress t.mem := by
  obtain ⟨s1, h1, h2⟩ := Out.andThen_eq_next h
  obtain ⟨-, rfl⟩ := armStep_next h1
  obtain ⟨-, h3⟩ := triggerStep_rx_next h2
  simpa [Uart.started, Uart.setCh, PerDir.set] using rxServiceStep_stored h3

end Sys2Proof.Machine
end

section
/-! PROOFS. What presenting an operation leaves alone (R26, R81), and what FINIT's success leaves behind (R171). -/

namespace Sys2Proof.Machine

/-- What an accepted operation keeps (R26): all but its unit, its result registers, FG, FINIT's FRAME and the trace,
which grows. -/
structure PresentFrame (i : Instr) (s t : State) : Prop where
  mem          : t.mem = s.mem
  cmd          : t.cmd = s.cmd
  a            : t.a = s.a
  par          : t.par = s.par
  sched        : t.sched = s.sched
  fgFault      : t.fgFault = s.fgFault
  handlerFault : t.handlerFault = s.handlerFault
  units        : ∀ j, unitTouched s.par i ≠ some j → t.uart j = s.uart j
  frame        : i ≠ .finit → t.frame = s.frame
  results      : i ≠ .solveb → i ≠ .solvet → t.r.q1 = s.r.q1 ∧ t.r.q2 = s.r.q2 ∧ t.r.q3 = s.r.q3
  trace        : s.trace <+: t.trace

section
variable {i : Instr} {s t : State}

theorem PresentFrame.refl (i : Instr) (s : State) : PresentFrame i s s :=
  ⟨rfl, rfl, rfl, rfl, rfl, rfl, rfl, fun _ _ => rfl, fun _ => rfl, fun _ _ => ⟨rfl, rfl, rfl⟩, List.prefix_rfl⟩

theorem PresentFrame.setUart (h : PresentFrame i s t) {j : Unit6} (hj : unitTouched s.par i = some j) (u : Uart) :
    PresentFrame i s (t.setUart j u) :=
  { h with
    units := fun k hk => by
      have hne : k ≠ j := fun hkj => hk (hkj.symm ▸ hj)
      rw [State.uart_setUart_ne t u hne]
      exact h.units k hk }

theorem PresentFrame.ret (h : PresentFrame i s t) (op : OpName) (v : Word) : PresentFrame i s (t.ret op v) :=
  { h with trace := h.trace.trans (List.prefix_append _ _) }

theorem PresentFrame.raise (h : PresentFrame i s t) (op : OpName) : PresentFrame i s (t.raise op) := h.ret op minusOne

theorem PresentFrame.emit (h : PresentFrame i s t) (e : Ev) : PresentFrame i s (t.emit e) :=
  { h with trace := h.trace.trans (List.prefix_append _ _) }

theorem PresentFrame.startFg (h : PresentFrame i s t) (op : FgOp) (p : FgPhase) : PresentFrame i s (t.startFg op p) :=
  { h with }

theorem PresentFrame.setK (h : PresentFrame i s t) (k : Half) : PresentFrame i s (t.setK k) := { h with }

theorem PresentFrame.solver (h : PresentFrame i s t) (hi : i = .solveb ∨ i = .solvet) (op : OpName) (q : Quad) :
    PresentFrame i s (t.retAll op q) :=
  { h with
    results := fun hb ht => (hi.elim hb ht).elim
    trace := h.trace.trans (List.prefix_append _ _) }

theorem PresentFrame.withFrame (h : PresentFrame .finit s t) (f : FrameRec) :
    PresentFrame .finit s { t with frame := f } :=
  { h with frame := fun hi => (hi rfl).elim }

end

/-- A receive stream started with no byte waiting: the service inside the trigger does nothing (R131). -/
theorem armTrigger_rx_of_empty {i : Unit6} {s : State} (ho : (s.uart i).ch.rx.outstanding = false)
    (hr : flag (s.uart i).sr .rxr = false) (dir : XferDir) (src dst : Endpoint) (len : Half) (circ : Bool)
    (prio : BitVec 2) :
    (armStep i .rx dir src dst len circ prio s).andThen (triggerStep i .rx) =
      .next ((s.setUart i ((s.uart i).started .rx dir src dst len circ prio)).emit (.trigger i .rx)) := by
  have ha : (s.uart i).ch.rx.active = false := by simp_all [Chan.outstanding]
  rw [armStep_free (by simpa using ho), Out.andThen_next, triggerStep_rx_free (by simpa using ha)]
  simp only [rxServiceStep, State.emit_uart, State.uart_setUart_same, State.setUart_setUart]
  rw [rxService_idle (by simp [Uart.rxTakes, hr])]
  simp [Uart.started, Uart.setCh, PerDir.set, State.setUart, State.emit, PerUnit.set_set]

/-- FINIT's writes of the framing unit and of FRAME (R171). -/
def State.setFraming (s : State) (u : Uart) : State :=
  { s.setUart s.par.frameUnit u with frame := ⟨true, .armed, 0#16⟩ }

@[simp] theorem State.setFraming_uart (s : State) (u : Uart) : (s.setFraming u).uart s.par.frameUnit = u :=
  State.uart_setUart_same s s.par.frameUnit u

theorem State.setFraming_setUart (s : State) (u v : Uart) :
    (s.setFraming u).setUart s.par.frameUnit v = s.setFraming v := by
  simp [State.setFraming, State.setUart, PerUnit.set_set]

/-- FINIT's unit: bound, its handler registered, and its receive stream started over the window (R171). -/
def State.finitUart (s : State) (brr : Half) : Uart :=
  ((s.uart s.par.frameUnit).framed (unpackOptions s.a.q0 framingOptions) brr).started .rx .periphToMem
    (.dr s.par.frameUnit) (.mem s.par.winBase) s.par.frameCap true s.par.prioRx

/-- FINIT's success. No byte is waiting at its trigger, for INIT's commit has cleared `rxr` (R151, R171). -/
def State.afterFinit (s : State) (brr : Half) : State :=
  ((s.setFraming (s.finitUart brr)).emit (.trigger s.par.frameUnit .rx)).ret .finit 0#32

/-- FINIT raises, or succeeds past every check of INIT (R171). -/
theorem execFinit_next {s t : State} (h : execFinit s = .next t) :
    s.foregroundFree ∧ (t = s.raise .finit ∨ ∃ brr,
      bindUart s.par s.par.frameUnit s.a.q0 framingOptions (s.uart s.par.frameUnit) =
        .bound ((s.uart s.par.frameUnit).commitBind (unpackOptions s.a.q0 framingOptions) brr) ∧
      (s.uart s.par.frameUnit).ch.rx.outstanding = false ∧ t = s.afterFinit brr) := by
  obtain ⟨hf, h⟩ := acceptForeground_next h
  refine ⟨hf, ?_⟩
  dsimp only at h
  split at h
  · cases h
  · cases h; exact .inl rfl
  · next u hb =>
    obtain ⟨-, -, -, -, brr, -, rfl⟩ := bindUart_bound hb
    obtain ⟨s2, h1, h2⟩ := Out.andThen_eq_next h
    change (armStep s.par.frameUnit .rx _ _ _ _ _ _ (s.setFraming ((s.uart s.par.frameUnit).framed
      (unpackOptions s.a.q0 framingOptions) brr))).andThen _ = _ at h1
    obtain ⟨s1, harm, -⟩ := Out.andThen_eq_next h1
    have ho := (armStep_next harm).1
    rw [State.setFraming_uart] at ho
    rw [armTrigger_rx_of_empty (by rwa [State.setFraming_uart]) (by rw [State.setFraming_uart]; exact flag_srStart _),
      State.setFraming_uart, State.setFraming_setUart] at h1
    cases h1
    cases h2
    exact .inr ⟨brr, hb, ho, rfl⟩

/-- INIT raises, or commits past every check (R151, R152). -/
theorem execInit_next {n : BitVec 4} {s t : State} (h : execInit n s = .next t) :
    s.foregroundFree ∧ (t = s.raise .init ∨ ∃ i brr, unitOf n = some i ∧
      bindUart s.par i s.a.q0 s.a.q1 (s.uart i) =
        .bound ((s.uart i).commitBind (unpackOptions s.a.q0 s.a.q1) brr) ∧
      t = (s.setUart i ((s.uart i).commitBind (unpackOptions s.a.q0 s.a.q1) brr)).ret .init 0#32) := by
  obtain ⟨hf, h⟩ := acceptForeground_next h
  refine ⟨hf, ?_⟩
  split at h
  · cases h; exact .inl rfl
  · next i hi =>
    split at h
    · cases h
    · cases h; exact .inl rfl
    · next u hb =>
      cases h
      obtain ⟨-, -, -, -, brr, -, rfl⟩ := bindUart_bound hb
      exact .inr ⟨i, brr, hi, hb, rfl⟩

/-! ### What an accepted operation can do -/

/-- SEND or FSEND in progress on a unit: the foreground's soundness is SEND's (R121, R172). -/
theorem State.fgSound_send {s : State} {i : Unit6} {len : Half} {buf : Word}
    (hop : s.fg.op = some (.send i len buf) ∨ (s.fg.op = some (.fsend len buf) ∧ i = s.par.frameUnit)) :
    s.FgSound ↔ (s.uart i).usable = true ∧ (s.uart i).SendSound len s.fg.k s.fg.phase := by
  unfold State.FgSound
  obtain hop | ⟨hop, rfl⟩ := hop <;> rw [hop]

/-- What an accepted operation answers, the writes of its unit left open (`exec_unit` lists them): an error, a result,
a foreground operation started at a label of its own pseudocode, a write of its unit, or FINIT's success. -/
inductive Presented (i : Instr) (s : State) : State → Prop where
  | raised (op : OpName) : Presented i s (s.raise op)
  | returned (op : OpName) (v : Word) : Presented i s (s.ret op v)
  | solved (hi : i = .solveb ∨ i = .solvet) (op : OpName) (q : Quad) : Presented i s (s.retAll op q)
  | started {op : FgOp} {p : FgPhase} (hs : (s.startFg op p).FgSound) : Presented i s (s.startFg op p)
  | startedFrom {op : FgOp} {p : FgPhase} {k : Half} (hs : ((s.startFg op p).setK k).FgSound) :
      Presented i s ((s.startFg op p).setK k)
  | wrote {j : Unit6} {u : Uart} {op : OpName} {v : Word} (hj : unitTouched s.par i = some j) :
      Presented i s ((s.setUart j u).ret op v)
  | finit (hi : i = .finit) (brr : Half) : Presented i s (s.afterFinit brr)

/-- S0 of SEND and FSEND: an error, the empty transfer, or the path the length and dmaen choose (R121). -/
theorem sendStart_presented {i : Instr} {name : OpName} {op : FgOp} {j : Unit6} {len : Half} {buf : Word} {s t : State}
    (hop : op = .send j len buf ∨ (op = .fsend len buf ∧ j = s.par.frameUnit))
    (h : sendStart name op j len s = .next t) : Presented i s t := by
  have hstart : ∀ x : State, x.fg.op = some op → x.par = s.par →
      x.fg.op = some (.send j len buf) ∨ (x.fg.op = some (.fsend len buf) ∧ j = x.par.frameUnit) := by
    rintro x hx hpar
    rw [hpar, hx, Option.some_inj, Option.some_inj]
    exact hop
  simp only [sendStart] at h
  split_ifs at h with hu h0 hpolled <;> cases h
  · exact .raised _
  · exact .returned _ _
  · refine .startedFrom ((State.fgSound_send (hstart ((s.startFg op .p1).setK 0#16) rfl rfl)).mpr ?_)
    refine ⟨by simpa using hu, ?_⟩
    exact ⟨by simpa [BitVec.toNat_eq, Nat.pos_iff_ne_zero] using h0, by simpa using hpolled⟩
  · refine .started ((State.fgSound_send (hstart (s.startFg op .d1) rfl rfl)).mpr ?_)
    refine ⟨by simpa using hu, ?_⟩
    simp only [Bool.or_eq_true, decide_eq_true_eq, Bool.not_eq_true', not_or, Bool.not_eq_false] at hpolled
    exact ⟨by bv_omega, hpolled.2⟩

/-- S0 of RECV: an error, the empty transfer, or the path dmaen chooses (R122). -/
theorem recvStart_presented {i : Instr} {j : Unit6} {circ : Bool} {len : Half} {s t : State}
    (h : recvStart j circ len s = .next t) : Presented i s t := by
  simp only [recvStart] at h
  split_ifs at h with hu h0 hpolled <;> cases h
  · exact .raised _
  · exact .returned _ _
  · refine .startedFrom ⟨by simpa using hu, ⟨?_, by simpa using hpolled⟩, nofun⟩
    simpa [BitVec.toNat_eq, Nat.pos_iff_ne_zero] using h0
  · refine .started ⟨by simpa using hu, ⟨?_, by simpa using hpolled⟩, nofun⟩
    bv_omega

/-- Every answer of a presented operation is one of `Presented`'s. -/
theorem exec_presented {i : Instr} {s t : State} (h : exec i s = .next t) : Presented i s t := by
  cases i with
  | init n =>
    obtain ⟨-, rfl | ⟨i, brr, hi, -, rfl⟩⟩ := execInit_next h
    · exact .raised _
    · exact .wrote hi
  | send n len =>
    simp only [exec, execSend] at h
    obtain ⟨-, h⟩ := acceptForeground_next h
    split at h
    · cases h; exact .raised _
    · exact sendStart_presented (.inl rfl) h
  | recv n circ len =>
    simp only [exec, execRecv] at h
    obtain ⟨-, h⟩ := acceptForeground_next h
    split at h
    · cases h; exact .raised _
    · exact recvStart_presented h
  | sendb n b =>
    simp only [exec, execSendb] at h
    obtain ⟨-, h⟩ := acceptForeground_next h
    split at h
    · cases h; exact .raised _
    · split at h <;> cases h
      · exact .raised _
      · next hu => exact .started ⟨by simpa using hu, .inl rfl⟩
  | recvb n =>
    simp only [exec, execRecvb] at h
    obtain ⟨-, h⟩ := acceptForeground_next h
    split at h
    · cases h; exact .raised _
    · split at h <;> cases h
      · exact .raised _
      · next hu => exact .started ⟨by simpa using hu, .inl rfl⟩
  | seth n sub =>
    simp only [exec, execSeth] at h
    split at h
    · obtain ⟨-, rfl⟩ := illegalCommand_next h; exact .raised _
    · obtain ⟨-, h⟩ := acceptForeground_next h
      split at h <;> cases h
      · exact .raised _
      · next hi => exact .wrote hi
  | finit =>
    obtain ⟨-, rfl | ⟨brr, -, -, rfl⟩⟩ := execFinit_next h
    · exact .raised _
    · exact .finit rfl brr
  | fsend len =>
    simp only [exec, execFsend] at h
    obtain ⟨-, h⟩ := acceptForeground_next h
    exact sendStart_presented (.inr ⟨rfl, rfl⟩) h
  | frecv =>
    simp only [exec, execFrecv] at h
    obtain ⟨-, h⟩ := acceptForeground_next h
    split at h <;> cases h
    · exact .raised _
    · next hu => exact .started ⟨by simpa using hu, trivial⟩
  | solveb =>
    simp only [exec, execSolveb] at h
    obtain ⟨-, h⟩ := acceptForeground_next h
    cases h; exact .solved (.inl rfl) _ _
  | solvet =>
    simp only [exec, execSolvet] at h
    obtain ⟨-, h⟩ := acceptForeground_next h
    cases h; exact .solved (.inr rfl) _ _
  | rdsr n =>
    simp only [exec, execRdsr] at h
    obtain ⟨-, h⟩ := acceptAny_next h
    split at h <;> cases h
    · exact .raised _
    · exact .returned _ _
  | rddr n =>
    simp only [exec, execRddr] at h
    obtain ⟨-, h⟩ := acceptAny_next h
    split at h <;> cases h
    · exact .raised _
    · next hi => exact .wrote hi
  | wrdr n b =>
    simp only [exec, execWrdr] at h
    obtain ⟨-, h⟩ := acceptAny_next h
    split at h <;> cases h
    · exact .raised _
    · next hi => exact .wrote hi
  | hret n =>
    simp only [exec, execHret] at h
    obtain ⟨-, h⟩ := acceptAny_next h
    split at h
    · cases h; exact .raised _
    · next hi =>
      split at h <;> cases h
      · exact .wrote hi
      all_goals exact .raised _

/-- Every accepted operation keeps what R26 says. -/
theorem exec_presentFrame {i : Instr} {s t : State} (h : exec i s = .next t) : PresentFrame i s t := by
  have hs := PresentFrame.refl i s
  cases exec_presented h with
  | raised op => exact hs.raise op
  | returned op v => exact hs.ret op v
  | solved hi op q => exact hs.solver hi op q
  | started => exact hs.startFg _ _
  | startedFrom => exact (hs.startFg _ _).setK _
  | wrote hj => exact (hs.setUart hj _).ret _ _
  | finit hi brr =>
    subst hi
    exact (((hs.setUart rfl _).withFrame _).emit _).ret _ _

/-- Settles O9: each operation's writes are among those `PresentFrame` leaves open. -/
theorem presentedOperationsKeepTheRest : Obligations.PresentedOperationsKeepTheRest := by
  intro i s t h
  obtain ⟨hmem, hcmd, ha, hpar, hsched, hfg, hh, hunits, hframe, hr, evs, htr⟩ := exec_presentFrame h
  exact ⟨hmem, hcmd, ha, hpar, hsched, hfg, hh, hunits, hframe, hr, evs, htr.symm⟩

end Sys2Proof.Machine
end

section
/-! PROOFS. The foreground's own step: what it leaves alone, and that it reads no operand register (R26, R27). -/

namespace Sys2Proof.Machine

/-- What the foreground's step does to all but the units, FG and the result registers: at most one store at the address
of its label (R122, R173), FRECV's rearming of FRAME, at most one BusFault of an invalid address (R61), and events. -/
structure ForegroundEffect (s t : State) : Prop where
  par          : t.par = s.par
  handlerFault : t.handlerFault = s.handlerFault
  trace        : s.trace <+: t.trace
  mem          : s.mem.Stored s.foregroundStore t.mem
  frame        : t.frame = s.frame ∨ t.frame = { s.frame with state := .armed }
  fgFault      : t.fgFault = s.fgFault ∨ ∃ f, t.fgFault = some f ∧ memValid s.par f.addr = false

section
variable {s t : State}

theorem ForegroundEffect.refl (s : State) : ForegroundEffect s s :=
  ⟨rfl, rfl, List.prefix_rfl, .refl _ _, .inl rfl, .inl rfl⟩

theorem ForegroundEffect.setUart (h : ForegroundEffect s t) (i : Unit6) (u : Uart) :
    ForegroundEffect s (t.setUart i u) := { h with }

theorem ForegroundEffect.goto (h : ForegroundEffect s t) (p : FgPhase) : ForegroundEffect s (t.goto p) := { h with }

theorem ForegroundEffect.setK (h : ForegroundEffect s t) (k : Half) : ForegroundEffect s (t.setK k) := { h with }

theorem ForegroundEffect.setN (h : ForegroundEffect s t) (n : Half) : ForegroundEffect s (t.setN n) := { h with }

theorem ForegroundEffect.emit (h : ForegroundEffect s t) (e : Ev) : ForegroundEffect s (t.emit e) :=
  { h with trace := h.trace.trans (List.prefix_append _ _) }

theorem ForegroundEffect.endFg (h : ForegroundEffect s t) (op : OpName) (v : Word) :
    ForegroundEffect s (t.endFg op v) :=
  { h with trace := h.trace.trans (List.prefix_append _ _) }

theorem ForegroundEffect.stick {f : BusFault} (hf : memValid s.par f.addr = false) :
    ForegroundEffect s (s.stickForeground f) :=
  { ForegroundEffect.refl s with fgFault := .inr ⟨f, rfl, hf⟩ }

theorem ForegroundEffect.store (h : ForegroundEffect s t) {m : Memory} (hm : s.mem.Stored s.foregroundStore m) :
    ForegroundEffect s { t with mem := m } := { h with mem := hm }

theorem ForegroundEffect.rearm (h : ForegroundEffect s t) (hf : t.frame = s.frame) :
    ForegroundEffect s { t with frame := { t.frame with state := .armed } } :=
  { h with frame := .inr (by rw [hf]) }

end

/-! ### Another set of operand registers -/

/-- The state with other operand registers. -/
def State.withA (s : State) (q : Quad) : State := { s with a := q }

@[simp] theorem State.withA_par (s : State) (q : Quad) : (s.withA q).par = s.par := rfl
@[simp] theorem State.withA_fg (s : State) (q : Quad) : (s.withA q).fg = s.fg := rfl
@[simp] theorem State.withA_frame (s : State) (q : Quad) : (s.withA q).frame = s.frame := rfl
@[simp] theorem State.withA_mem (s : State) (q : Quad) : (s.withA q).mem = s.mem := rfl
@[simp] theorem State.withA_uart (s : State) (q : Quad) (i : Unit6) : (s.withA q).uart i = s.uart i := rfl

/-- The answers of a foreground step in a state and in that state with other operand registers: the same next state
but for the operand registers, with the effect of a foreground step, or no step in either. -/
inductive OperandFree (s : State) (q : Quad) : Out → Out → Prop where
  | next {t : State} (h : ForegroundEffect s t) : OperandFree s q (.next t) (.next (t.withA q))
  | fault (f : Fault) : OperandFree s q (.fault f) (.fault f)
  | refused (r : Refusal) : OperandFree s q (.refused r) (.refused r)

theorem OperandFree.ite {s : State} {q : Quad} {c : Prop} [Decidable c] {o p o' p' : Out}
    (h : OperandFree s q o o') (h' : OperandFree s q p p') :
    OperandFree s q (if c then o else p) (if c then o' else p') := by
  split
  · exact h
  · exact h'

theorem Out.andThen_ite (c : Prop) [Decidable c] (o p : Out) (k : State → Out) :
    Out.andThen (if c then o else p) k = if c then o.andThen k else p.andThen k := by
  split <;> rfl

theorem armStep_withA (i : Unit6) (d : Dir) (dir : XferDir) (src dst : Endpoint) (len : Half) (circ : Bool)
    (prio : BitVec 2) (s : State) (q : Quad) : armStep i d dir src dst len circ prio (s.withA q) =
      (armStep i d dir src dst len circ prio s).andThen fun t => .next (t.withA q) := by
  simp only [armStep, State.withA_uart, Out.andThen_ite]
  rfl

theorem rxServiceStep_withA (i : Unit6) (s : State) (q : Quad) :
    rxServiceStep i (s.withA q) = (rxServiceStep i s).andThen fun t => .next (t.withA q) := by
  simp only [rxServiceStep, State.withA_par, State.withA_uart, State.withA_mem]
  cases rxService s.par i (s.uart i) s.mem <;> rfl

theorem triggerStep_withA (i : Unit6) (d : Dir) (s : State) (q : Quad) :
    triggerStep i d (s.withA q) = (triggerStep i d s).andThen fun t => .next (t.withA q) := by
  simp only [triggerStep, State.withA_uart, Out.andThen_ite]
  cases d with
  | rx =>
    simp only [← rxServiceStep_withA]
    rfl
  | tx => rfl

/-- The start of a channel reads no operand register. -/
theorem armTrigger_withA (i : Unit6) (d : Dir) (dir : XferDir) (src dst : Endpoint) (len : Half) (circ : Bool)
    (prio : BitVec 2) (s : State) (q : Quad) :
    (armStep i d dir src dst len circ prio (s.withA q)).andThen (triggerStep i d) =
      ((armStep i d dir src dst len circ prio s).andThen (triggerStep i d)).andThen fun t => .next (t.withA q) := by
  rw [armStep_withA]
  cases armStep i d dir src dst len circ prio s with
  | next t => exact triggerStep_withA i d t q
  | fault f => rfl
  | refused r => rfl

/-- Label D1: a channel is started with the effect of a foreground step, and then the next label reached. -/
theorem OperandFree.start {s : State} {q : Quad} {i : Unit6} {d : Dir} {dir : XferDir} {src dst : Endpoint}
    {len : Half} {circ : Bool} {prio : BitVec 2} {k : State → Out}
    (hk : ∀ t, (armStep i d dir src dst len circ prio s).andThen (triggerStep i d) = .next t →
      OperandFree s q (k t) (k (t.withA q))) :
    OperandFree s q (((armStep i d dir src dst len circ prio s).andThen (triggerStep i d)).andThen k)
      (((armStep i d dir src dst len circ prio (s.withA q)).andThen (triggerStep i d)).andThen k) := by
  rw [armTrigger_withA]
  generalize (armStep i d dir src dst len circ prio s).andThen (triggerStep i d) = o at hk ⊢
  cases o with
  | next t => exact hk t rfl
  | fault f => exact .fault f
  | refused r => exact .refused r

/-! ### The operations' steps -/

theorem sendStep_operandFree (s : State) (q : Quad) (name : OpName) (i : Unit6) (len : Half) (buf : Word) :
    OperandFree s q (sendStep name i len buf s) (sendStep name i len buf (s.withA q)) := by
  have hs := ForegroundEffect.refl s
  simp only [sendStep, State.withA_par, State.withA_uart, State.withA_mem, State.withA_fg]
  cases s.fg.phase with
  | p1 =>
    cases hr : memRead s.par s.mem (byteAddr buf s.fg.k) with
    | error f =>
      obtain ⟨hv, rfl⟩ := memRead_error hr
      exact .next (.stick hv)
    | ok b => exact .next ((hs.setUart _ _).goto _)
  | p2 => exact .ite (.next (hs.goto _)) (.next hs)
  | p3 => exact .ite (.next ((hs.setK _).goto _)) (.next ((hs.setK _).endFg _ _))
  | d1 =>
    refine .start fun t ht => ?_
    obtain ⟨-, rfl⟩ := armTrigger_tx_next ht
    exact .next (((hs.setUart _ _).emit _).goto _)
  | d2 => exact .ite (.next (hs.goto _)) (.next hs)
  | d3 => exact .next ((hs.setUart _ _).endFg _ _)
  | s0 | w1 | w2 | c1 | c2 => exact .refused _

theorem recvStep_operandFree {s : State} {i : Unit6} {circ : Bool} {len : Half} {buf : Word}
    (hop : s.fg.op = some (.recv i circ len buf)) (q : Quad) :
    OperandFree s q (recvStep i circ len buf s) (recvStep i circ len buf (s.withA q)) := by
  have hs := ForegroundEffect.refl s
  simp only [recvStep, State.withA_par, State.withA_uart, State.withA_mem, State.withA_fg]
  cases hp : s.fg.phase with
  | p1 => exact .ite (.next (hs.goto _)) (.next hs)
  | p2 =>
    cases hw : memWrite s.par s.mem (byteAddr buf s.fg.k) (s.uart i).rdr with
    | error f =>
      obtain ⟨hv, rfl⟩ := memWrite_error hw
      exact .next (.stick hv)
    | ok m =>
      have hm : s.mem.Stored s.foregroundStore m := by
        simpa [State.foregroundStore, hop, hp] using Memory.Stored.of_memWrite hw
      have hstore := ((hs.setUart i (s.uart i).takeRdr).store hm).setK (s.fg.k + 1#16)
      exact .ite (.next (hstore.goto _)) (.next (hstore.endFg _ _))
  | d1 =>
    refine .start fun t ht => ?_
    have hm : s.mem.Stored s.foregroundStore t.mem := by
      simpa [State.foregroundStore, hop, hp, Uart.started_serviceAddress] using armTrigger_rx_stored ht
    obtain ⟨-, v, m, -, rfl⟩ := armTrigger_rx_next ht
    have hstart := ((hs.setUart i v).emit (.trigger i .rx)).store hm
    exact .ite (.next (hstart.endFg _ _)) (.next (hstart.goto _))
  | d2 => exact .ite (.next (hs.goto _)) (.next hs)
  | d3 => exact .next ((hs.setUart _ _).endFg _ _)
  | s0 | p3 | w1 | w2 | c1 | c2 => exact .refused _

theorem sendbStep_operandFree (s : State) (q : Quad) (i : Unit6) (v : Byte) :
    OperandFree s q (sendbStep i v s) (sendbStep i v (s.withA q)) := by
  have hs := ForegroundEffect.refl s
  simp only [sendbStep, State.withA_uart, State.withA_fg]
  cases s.fg.phase with
  | p1 => exact .next ((hs.setUart _ _).goto _)
  | p2 => exact .ite (.next (hs.goto _)) (.next hs)
  | p3 => exact .next (hs.endFg _ _)
  | s0 | d1 | d2 | d3 | w1 | w2 | c1 | c2 => exact .refused _

theorem recvbStep_operandFree (s : State) (q : Quad) (i : Unit6) :
    OperandFree s q (recvbStep i s) (recvbStep i (s.withA q)) := by
  have hs := ForegroundEffect.refl s
  simp only [recvbStep, State.withA_uart, State.withA_fg]
  cases s.fg.phase with
  | p1 => exact .ite (.next (hs.goto _)) (.next hs)
  | p2 => exact .next ((hs.setUart _ _).endFg _ _)
  | s0 | p3 | d1 | d2 | d3 | w1 | w2 | c1 | c2 => exact .refused _

theorem frecvStep_operandFree {s : State} {buf : Word} (hop : s.fg.op = some (.frecv buf)) (q : Quad) :
    OperandFree s q (frecvStep buf s) (frecvStep buf (s.withA q)) := by
  have hs := ForegroundEffect.refl s
  simp only [frecvStep, State.withA_par, State.withA_uart, State.withA_mem, State.withA_fg, State.withA_frame]
  cases hp : s.fg.phase with
  | w1 => exact .ite (.next (hs.goto _)) (.next hs)
  | w2 =>
    have htake := (hs.setUart s.par.frameUnit ((s.uart s.par.frameUnit).setSig .rx false)).setN s.frame.len
    exact .ite (.next ((htake.rearm rfl).endFg _ _)) (.next ((htake.setK _).goto _))
  | c1 =>
    cases hr : memRead s.par s.mem (byteAddr s.par.winBase s.fg.k) with
    | error f =>
      obtain ⟨hv, rfl⟩ := memRead_error hr
      exact .next (.stick hv)
    | ok b =>
      dsimp only
      cases hw : memWrite s.par s.mem (byteAddr buf s.fg.k) b with
      | error f =>
        obtain ⟨hv, rfl⟩ := memWrite_error hw
        exact .next (.stick hv)
      | ok m =>
        have hm : s.mem.Stored s.foregroundStore m := by
          simpa [State.foregroundStore, hop, hp] using Memory.Stored.of_memWrite hw
        have hstore := (hs.store hm).setK (s.fg.k + 1#16)
        exact .ite (.next hstore) (.next (hstore.goto _))
  | c2 => exact .next ((hs.rearm rfl).endFg _ _)
  | s0 | p1 | p2 | p3 | d1 | d2 | d3 => exact .refused _

/-- The foreground's step reads no operand register and writes what `ForegroundEffect` leaves open. -/
theorem foregroundStep_operandFree (s : State) (q : Quad) :
    OperandFree s q (foregroundStep s) (foregroundStep (s.withA q)) := by
  by_cases hm : s.foregroundMayAct = true
  · cases hop : s.fg.op with
    | none => simpa [foregroundStep, hop, noForegroundStep] using OperandFree.refused _
    | some op =>
      rw [foregroundStep_of_op hm hop, foregroundStep_of_op (s := s.withA q) hm hop]
      cases op with
      | send i len buf => exact sendStep_operandFree s q .send i len buf
      | recv i circ len buf => exact recvStep_operandFree hop q
      | sendb i v => exact sendbStep_operandFree s q i v
      | recvb i => exact recvbStep_operandFree s q i
      | fsend len buf => exact sendStep_operandFree s q .fsend s.par.frameUnit len buf
      | frecv buf => exact frecvStep_operandFree hop q
  · have hm' : (s.withA q).foregroundMayAct ≠ true := hm
    simpa only [foregroundStep, if_neg hm, if_neg hm', noForegroundStep] using OperandFree.refused _

/-- A foreground step taken with other operand registers ends in the same state but for them. -/
theorem foregroundStep_withA {s t : State} (h : foregroundStep s = .next t) (q : Quad) :
    ForegroundEffect s t ∧ foregroundStep (s.withA q) = .next (t.withA q) := by
  have hq := foregroundStep_operandFree s q
  generalize foregroundStep (s.withA q) = o at hq ⊢
  rw [h] at hq
  cases hq with
  | next ht => exact ⟨ht, rfl⟩

theorem foregroundStep_effect {s t : State} (h : foregroundStep s = .next t) : ForegroundEffect s t :=
  (foregroundStep_withA h s.a).1

/-! ### The host's own writes -/

/-- A host store to a valid address is one store (R62). -/
theorem hostStoreStep_valid {s : State} {a : Word} (hm : s.hostMayAct = true) (hv : memValid s.par a = true)
    (b : Byte) : hostStoreStep a b s = .next { s with mem := s.mem.write a.toNat b } := by
  simp [hostStoreStep, hm, memWrite_valid hv]

/-- Settles O55: the host's moves are one write each, and the foreground's step reads no operand register. -/
theorem hostWritesItsOperandsAndMemory : Obligations.HostWritesItsOperandsAndMemory := by
  refine ⟨fun s n v hm => ?_, fun s t q h => ⟨?_, (foregroundStep_withA h q).2⟩, fun s a b hm hwf hv => ?_⟩
  · simp only [agentStep, hostOperandStep, if_pos hm]
    match n with
    | 0 => rfl
    | 1 => rfl
    | 2 => rfl
    | 3 => rfl
  · have hself : foregroundStep s = .next (t.withA s.a) := (foregroundStep_withA h s.a).2
    have ht : t = t.withA s.a := Host.Outcome.next.inj (h.symm.trans hself)
    rw [ht]
    rfl
  · exact ⟨_, hostStoreStep_valid hm hv b, Memory.wf_write hwf a.isLt b, Memory.read_write_same hwf a.toNat b,
      fun c hc => Memory.read_write_ne hwf b fun h => hc (BitVec.eq_of_toNat_eq h)⟩

end Sys2Proof.Machine
end

section
/-! PROOFS. Every move together: the parameters and the trace (R53, R57), and the one store (R55, R62). -/

namespace Sys2Proof.Machine

/-- A move of a unit's agents keeps the parameters and appends its events. -/
theorem unitMove_par_trace {s t : State} {m : Move} {i : Unit6} (hm : m.unit = some i) (h : agentStep m s = .next t) :
    t.par = s.par ∧ s.trace <+: t.trace := by
  obtain ⟨e, rfl, -⟩ := unitMove_effect (.refl s i) hm h
  exact ⟨rfl, List.prefix_append _ _⟩

/-- The host's write of an operand register changes the operand registers alone (R26). -/
theorem hostOperandStep_next {n : Fin 4} {v : Word} {s t : State} (h : hostOperandStep n v s = .next t) :
    ∃ q, t = { s with a := q } := by
  unfold hostOperandStep at h
  split at h <;> cases h
  exact ⟨_, rfl⟩

/-- The host's store changes memory alone, or at an invalid address makes the host's context stuck (R62, R238). -/
theorem hostStoreStep_next {a : Word} {b : Byte} {s t : State} (h : hostStoreStep a b s = .next t) :
    (∃ m, s.mem.Stored (some a) m ∧ t = { s with mem := m }) ∨ (memValid s.par a = false ∧ t = s.stickHost ⟨a⟩) := by
  unfold hostStoreStep at h
  split at h
  · split at h
    · next hw =>
      obtain ⟨hv, rfl⟩ := memWrite_error hw
      cases h; exact .inr ⟨hv, rfl⟩
    · next hw => cases h; exact .inl ⟨_, .of_memWrite hw, rfl⟩
  · cases h

/-- The host's write of CMD raises for an illegal word, and else presents the operation with CMD written (R75, R90). -/
theorem presentCommand_next {w : Word} {s t : State} (h : presentCommand w s = .next t) :
    (∃ i, decode w = .legal i ∧ exec i { s with cmd := w } = .next t) ∨
    t = State.raise { s with cmd := w } .illegal := by
  unfold presentCommand at h
  split at h
  · next i hd => exact .inl ⟨i, hd, h⟩
  · exact .inr (illegalCommand_next h).2

/-- No move writes a parameter, and every move's events are appended to the trace. -/
theorem agentStep_par_trace {s t : State} {m : Move} (h : agentStep m s = .next t) :
    t.par = s.par ∧ s.trace <+: t.trace := by
  cases m with
  | hostOperand n v =>
    obtain ⟨q, rfl⟩ := hostOperandStep_next h
    exact ⟨rfl, List.prefix_rfl⟩
  | hostStore a b =>
    obtain ⟨m, -, rfl⟩ | ⟨-, rfl⟩ := hostStoreStep_next h
    · exact ⟨rfl, List.prefix_rfl⟩
    · simp
  | hostCommand w =>
    obtain ⟨i, -, he⟩ | rfl := presentCommand_next h
    · exact ⟨(exec_presentFrame he).par, (exec_presentFrame he).trace⟩
    · exact ⟨rfl, List.prefix_append _ _⟩
  | foreground => exact ⟨(foregroundStep_effect h).par, (foregroundStep_effect h).trace⟩
  | dispatcher i | txMove i | dmaDone i d | rxByte i b | idleEvent i | txShift i | ctsEvent i | breakEvent i
  | parityEvent i => exact unitMove_par_trace rfl h

/-- Settles O56: a step is a move of the schedule, or none. -/
theorem traceOnlyGrowsAndParametersStay : Obligations.TraceOnlyGrowsAndParametersStay := by
  intro s t h
  unfold step at h
  split at h
  · cases h
    exact ⟨rfl, [], (List.append_nil _).symm⟩
  · obtain ⟨hpar, evs, htr⟩ := agentStep_par_trace h
    exact ⟨hpar, evs, htr.symm⟩

/-! ### Stores -/

/-- A dispatcher stores in the framing handler's restart alone (R181). -/
theorem dispatcherStep_stored {i : Unit6} {s t : State} (h : dispatcherStep i s = .next t) :
    s.mem.Stored (Move.storeAddress s (.dispatcher i)) t.mem := by
  simp only [dispatcherStep] at h
  split at h
  case h_1 => split at h <;> cases h; exact .refl _ _
  case h_2 =>
    simp only [scanStep] at h
    split at h
    · cases h; exact .refl _ _
    · split at h <;> cases h <;> exact .refl _ _
  case h_3 => cases h
  case h_4 f hp =>
    cases f <;> simp only [frameStep] at h
    case f4 =>
      have hst := rxServiceStep_stored h
      rw [State.uart_setUart_same] at hst
      simp only [Move.storeAddress, if_pos hp]
      exact hst
    all_goals cases h; exact .refl _ _

/-- A byte that arrives is stored by the receive service alone (R197). -/
theorem rxByteStep_stored {i : Unit6} {b : Byte} {s t : State} (h : rxByteStep i b s = .next t) :
    s.mem.Stored (Move.storeAddress s (.rxByte i b)) t.mem := by
  simp only [rxByteStep] at h
  split_ifs at h with hu hf
  · cases h
  · cases h; exact .refl _ _
  · have hst := rxServiceStep_stored h
    rw [State.uart_setUart_same] at hst
    simp only [Move.storeAddress, if_neg hf]
    exact hst

theorem txMoveStep_mem {i : Unit6} {s t : State} (h : txMoveStep i s = .next t) : t.mem = s.mem := by
  simp only [txMoveStep] at h
  split at h
  · split at h
    · cases h
    · split at h <;> cases h <;> rfl
  · cases h

/-- Every move stores at most one byte, at the address its rule gives. -/
theorem agentStep_stored {s t : State} {m : Move} (h : agentStep m s = .next t) :
    s.mem.Stored (m.storeAddress s) t.mem := by
  cases m with
  | hostOperand n v =>
    obtain ⟨q, rfl⟩ := hostOperandStep_next h
    exact .refl _ _
  | hostStore a b =>
    obtain ⟨m, hm, rfl⟩ | ⟨-, rfl⟩ := hostStoreStep_next h
    · exact hm
    · exact .inl (s.stickHost_mem _)
  | hostCommand w =>
    obtain ⟨i, -, he⟩ | rfl := presentCommand_next h
    · exact .inl (exec_presentFrame he).mem
    · exact .refl _ _
  | foreground => exact (foregroundStep_effect h).mem
  | dispatcher i => exact dispatcherStep_stored h
  | txMove i => exact .inl (txMoveStep_mem h)
  | rxByte i b => exact rxByteStep_stored h
  | dmaDone i d | idleEvent i | txShift i | ctsEvent i | breakEvent i | parityEvent i =>
    simp only [agentStep, dmaDoneStep, idleEventStep, txShiftStep, ctsEventStep, breakEventStep, parityEventStep] at h
    split at h <;> cases h
    exact .refl _ _

/-- Settles O51: a move's one store leaves every address but the rule's as it was. -/
theorem storesGoOnlyWhereTheRuleSays : Obligations.StoresGoOnlyWhereTheRuleSays :=
  fun _ _ _ hwf h _ ha => (agentStep_stored h).read_ne hwf ha

end Sys2Proof.Machine
end

section
/-! PROOFS. Who writes a unit's binding, signals, mask and handler table (R28, R43 to R45, R55): each read off the cases
of `UnitStep`. -/

namespace Sys2Proof.Machine

/-- The receive service writes the flags, the receive channel and its fault record alone (R133). -/
theorem Uart.Serviced.eq_update {p : Params} {u v : Uart} (h : u.Serviced p v) :
    ∃ sr rx f, v = { u with sr := sr, ch := { u.ch with rx := rx }, chFault := f } := by
  obtain ⟨-, rfl⟩ | ⟨-, rfl⟩ | ⟨-, f, -, rfl⟩ := h
  · exact ⟨_, _, _, rfl⟩
  · exact ⟨_, _, _, rfl⟩
  · exact ⟨_, _, _, rfl⟩

/-- A move keeps a unit's binding, or binds it: INIT of the unit, or FINIT of the framing unit (R28). -/
theorem UnitStep.binding {s : State} {i : Unit6} {m : Move} {v : Uart} (h : UnitStep s i m v) :
    (v.cfgv = (s.uart i).cfgv ∧ v.cfg = (s.uart i).cfg ∧ v.brr = (s.uart i).brr) ∨
    ((s.uart i).cfgv = false ∧ ∃ w, m = .hostCommand w ∧
      ((∃ n, decode w = .legal (.init n) ∧ unitOf n = some i) ∨
        (decode w = .legal .finit ∧ i = s.par.frameUnit))) := by
  cases h with
  | bind hd hi hc => exact .inr ⟨hc, _, rfl, .inl ⟨_, hd, hi⟩⟩
  | finit hd hi hc => exact .inr ⟨hc, _, rfl, .inr ⟨hd, hi⟩⟩
  | fgStartRx _ _ _ hv | f4 _ hv | rxLatched _ _ hv =>
    obtain ⟨sr, rx, f, rfl⟩ := hv.eq_update
    exact .inl ⟨rfl, rfl, rfl⟩
  | hret | finish | f5 => exact .inl (by simp)
  | _ => exact .inl ⟨rfl, rfl, rfl⟩

/-- Settles O48: a move that does not keep the binding is INIT or FINIT of an unbound unit. -/
theorem boundConfigurationNeverChanges : Obligations.BoundConfigurationNeverChanges := by
  intro s t m i h
  obtain ⟨hcfgv, hcfg, hbrr⟩ | ⟨hc, hw⟩ := (agentStep_unit i h).binding
  · exact ⟨fun hb => ⟨hcfgv.trans hb, hcfg, hbrr⟩, fun hb hb' => by simp [hcfgv, hb] at hb'⟩
  · exact ⟨fun hb => by simp [hc] at hb, fun _ _ => hw⟩

/-- A move keeps a CompletionSignal, or sets it as the completion callback or the framing handler's last step, or clears
it as the taking label of an operation or as FINIT (R44, R171). -/
theorem UnitStep.signal {s : State} {i : Unit6} {m : Move} {v : Uart} (h : UnitStep s i m v) (d : Dir) :
    v.sig.get d = (s.uart i).sig.get d ∨
    (v.sig.get d = true ∧ (m = .dmaDone i d ∨
      (d = .rx ∧ m = .dispatcher i ∧ (s.uart i).dsp.phase = .frame .f5))) ∨
    (v.sig.get d = false ∧ (
      (m = .foreground ∧ d = .tx ∧ ((∃ len buf, s.fg.op = some (.send i len buf)) ∨
        (i = s.par.frameUnit ∧ ∃ len buf, s.fg.op = some (.fsend len buf)))) ∨
      (m = .foreground ∧ d = .rx ∧ ((∃ circ len buf, s.fg.op = some (.recv i circ len buf)) ∨
        (i = s.par.frameUnit ∧ ∃ buf, s.fg.op = some (.frecv buf)))) ∨
      (d = .rx ∧ i = s.par.frameUnit ∧ ∃ w, m = .hostCommand w ∧ decode w = .legal .finit))) := by
  cases h with
  | finit hd hi hc ho hv =>
    obtain ⟨sr, rx, f, rfl⟩ := hv.eq_update
    cases d with
    | rx => exact .inr (.inr ⟨rfl, .inr (.inr ⟨rfl, hi, _, rfl, hd⟩)⟩)
    | tx => exact .inl rfl
  | fgStartRx _ _ _ hv | f4 _ hv | rxLatched _ _ hv =>
    obtain ⟨sr, rx, f, rfl⟩ := hv.eq_update
    exact .inl rfl
  | fgSigTx hop =>
    cases d with
    | rx => exact .inl rfl
    | tx =>
      refine .inr (.inr ⟨rfl, .inl ⟨rfl, rfl, ?_⟩⟩)
      exact hop.imp (fun h => ⟨_, _, h⟩) fun h => ⟨h.2, _, _, h.1⟩
  | fgSigRx hop =>
    cases d with
    | rx =>
      refine .inr (.inr ⟨rfl, .inr (.inl ⟨rfl, rfl, ?_⟩)⟩)
      obtain ⟨circ, len, buf, hop, -⟩ | ⟨hi, buf, hop, -⟩ := hop
      · exact .inl ⟨circ, len, buf, hop⟩
      · exact .inr ⟨hi, buf, hop⟩
    | tx => exact .inl rfl
  | f5 hp =>
    cases d with
    | rx => exact .inr (.inl ⟨by simp, .inr ⟨rfl, rfl, hp⟩⟩)
    | tx => exact .inl (by simp)
  | @dmaDone e hg hn =>
    rw [Uart.setSig_sig, PerDir.get_set]
    split
    · next hde => exact .inr (.inl ⟨rfl, .inl (by rw [hde])⟩)
    · exact .inl rfl
  | hret | finish => exact .inl (by simp)
  | _ => exact .inl rfl

/-- Settles O49: `UnitStep.signal`, the framing handler being the framing unit's by the invariant. -/
theorem signalsAreWrittenByTheirOwners : Obligations.SignalsAreWrittenByTheirOwners := by
  intro s t m i d hinv h
  obtain hk | ⟨hset, hw⟩ | ⟨hclear, hw⟩ := (agentStep_unit i h).signal d
  · exact ⟨fun h0 h1 => by simp [hk, h0] at h1, fun h1 h0 => by simp [hk, h1] at h0⟩
  · refine ⟨fun _ _ => hw.imp id ?_, fun _ h0 => by simp [hset] at h0⟩
    rintro ⟨hd, hm, hp⟩
    exact ⟨hd, hinv.framing_unit hp, hm, hp⟩
  · exact ⟨fun _ h1 => by simp [hclear] at h1, fun _ _ => hw⟩

/-- Only the framing handler's first and last step write the mask (R45, R177, R182). -/
theorem UnitStep.mask {s : State} {i : Unit6} {m : Move} {v : Uart} (h : UnitStep s i m v) :
    v.masked = (s.uart i).masked ∨
    (m = .dispatcher i ∧ ((s.uart i).dsp.phase = .frame .f0 ∨ (s.uart i).dsp.phase = .frame .f5)) := by
  cases h with
  | f0 hp => exact .inr ⟨rfl, .inl hp⟩
  | f5 hp => exact .inr ⟨rfl, .inr hp⟩
  | finit _ _ _ _ hv | fgStartRx _ _ _ hv | f4 _ hv | rxLatched _ _ hv =>
    obtain ⟨sr, rx, f, rfl⟩ := hv.eq_update
    exact .inl rfl
  | hret | finish => exact .inl (by simp)
  | _ => exact .inl rfl

/-- A token stored by SETH is NONE or a handler of the host, never FRAME and never the token 0 (R43, R88). -/
theorem slotOfToken_plain (h : Word) : slotOfToken h ≠ .frame ∧ slotOfToken h ≠ .ext 0#32 := by
  unfold slotOfToken
  split
  · exact ⟨nofun, nofun⟩
  · next hne => exact ⟨nofun, fun he => hne (Slot.ext.inj he)⟩

/-- A slot of the handler table is kept, or stored by SETH, or by FINIT in the framing unit's idle-line slot
(R43, R153, R176). -/
theorem UnitStep.slotWrite {s : State} {i : Unit6} {m : Move} {v : Uart} (h : UnitStep s i m v) (k : EventKind) :
    v.hslot.get k = (s.uart i).hslot.get k ∨ ∃ w, m = .hostCommand w ∧
      ((∃ n sub, decode w = .legal (.seth n sub) ∧ unitOf n = some i ∧ kindOf sub = some k ∧
          v.hslot.get k = slotOfToken s.a.q0) ∨
        (decode w = .legal .finit ∧ i = s.par.frameUnit ∧ k = .idle ∧ v.hslot.get k = .frame)) := by
  cases h with
  | @slot w n sub j hd hi hk =>
    rw [Uart.setSlot_hslot, PerKind.get_set]
    split
    · next hkj =>
      subst hkj
      exact .inr ⟨w, rfl, .inl ⟨n, sub, hd, hi, hk, rfl⟩⟩
    · exact .inl rfl
  | @finit w c brr v hd hi hc ho hv =>
    obtain ⟨sr, rx, f, rfl⟩ := hv.eq_update
    change ((s.uart i).hslot.set .idle .frame).get k = _ ∨ ∃ w', _ ∧ (_ ∨ _ ∧ _ ∧ _ ∧
      ((s.uart i).hslot.set .idle .frame).get k = _)
    rw [PerKind.get_set]
    split
    · next hki => exact .inr ⟨w, rfl, .inr ⟨hd, hi, hki, rfl⟩⟩
    · exact .inl rfl
  | fgStartRx _ _ _ hv | f4 _ hv | rxLatched _ _ hv =>
    obtain ⟨sr, rx, f, rfl⟩ := hv.eq_update
    exact .inl rfl
  | hret | finish | f5 => exact .inl (by simp)
  | _ => exact .inl rfl

/-- Settles O50: `UnitStep.mask` and `UnitStep.slotWrite`. -/
theorem maskAndHandlerTableHaveOneWriter : Obligations.MaskAndHandlerTableHaveOneWriter := by
  intro s t m i h
  have hu := agentStep_unit i h
  refine ⟨fun hne => hu.mask.resolve_left hne, fun k hne => ?_⟩
  obtain ⟨w, hm, ⟨n, sub, hd, hi, hk, hv⟩ | hfinit⟩ := (hu.slotWrite k).resolve_left hne
  · exact ⟨w, hm, .inl ⟨n, sub, hd, hi, hk, by rw [hv]; exact (slotOfToken_plain _).1⟩⟩
  · exact ⟨w, hm, .inr hfinit⟩

end Sys2Proof.Machine
end

section
/-! PROOFS. The invariant of the machine: a unit's binding, slots, dispatcher and channels are kept by every case of
`UnitStep` (R29, R43 to R49, R121 to R137, R171 to R182). -/

namespace Sys2Proof.Machine

/-! ### The binding and the handler table -/

/-- INIT's checks make the binding sound (R29, R30, R151). -/
theorem bindUart_configSound {p : Params} {i : Unit6} {baud opts : Word} {u v : Uart}
    (h : bindUart p i baud opts u = .bound v) : v.ConfigSound p i := by
  obtain ⟨-, -, hbaud, hmode, brr, hbrr, rfl⟩ := bindUart_bound h
  exact fun _ => ⟨hbaud, hmode, hbrr⟩

/-- A unit replaced by a sound one leaves every unit sound. -/
theorem Uart.ConfigSound.setUart {s : State} {p : Params} {j : Unit6} {u : Uart} (hu : u.ConfigSound p j)
    (hs : ∀ i, (s.uart i).ConfigSound p i) (i : Unit6) : ((s.setUart j u).uart i).ConfigSound p i := by
  rw [State.uart_setUart]
  split
  · subst_vars; exact hu
  · exact hs i

theorem execInit_configSound {n : BitVec 4} {s t : State} (hs : ∀ i, (s.uart i).ConfigSound s.par i)
    (h : execInit n s = .next t) (i : Unit6) : (t.uart i).ConfigSound s.par i := by
  obtain ⟨-, rfl | ⟨j, brr, -, hb, rfl⟩⟩ := execInit_next h
  · exact hs i
  · exact (bindUart_configSound hb).setUart hs i

theorem execFinit_configSound {s t : State} (hs : ∀ i, (s.uart i).ConfigSound s.par i)
    (h : execFinit s = .next t) (i : Unit6) : (t.uart i).ConfigSound s.par i := by
  obtain ⟨-, rfl | ⟨brr, hb, -, rfl⟩⟩ := execFinit_next h
  · exact hs i
  · have hu : (s.finitUart brr).ConfigSound s.par s.par.frameUnit := fun _ => (bindUart_configSound hb :) rfl
    exact hu.setUart hs i

/-- A move keeps every unit's binding sound: it keeps the binding, or binds past INIT's checks (R28, R151). -/
theorem agentStep_configSound {s t : State} {m : Move} (hs : ∀ i, (s.uart i).ConfigSound s.par i)
    (h : agentStep m s = .next t) (i : Unit6) : (t.uart i).ConfigSound s.par i := by
  obtain ⟨hcfgv, hcfg, hbrr⟩ | ⟨hc, w, rfl, hw⟩ := (agentStep_unit i h).binding
  · unfold Uart.ConfigSound
    rw [hcfgv, hcfg, hbrr]
    exact hs i
  · obtain ⟨x, hx, he⟩ | rfl := presentCommand_next h
    · obtain ⟨n, hd, -⟩ | ⟨hd, -⟩ := hw <;> cases hx.symm.trans hd
      · exact execInit_configSound (s := { s with cmd := w }) hs he i
      · exact execFinit_configSound (s := { s with cmd := w }) hs he i
    · exact hs i

/-- A move keeps a unit's handler table sound (R43, R176). -/
theorem UnitStep.slotsSound {s : State} {i : Unit6} {m : Move} {v : Uart} (h : UnitStep s i m v)
    (hs : (s.uart i).SlotsSound s.par i) : v.SlotsSound s.par i := by
  intro k
  obtain hk | ⟨w, -, ⟨n, sub, -, -, -, hk⟩ | ⟨-, hi, hidle, hk⟩⟩ := h.slotWrite k
  · rw [hk]
    exact hs k
  · rw [hk]
    exact ⟨fun hf => absurd hf (slotOfToken_plain _).1, (slotOfToken_plain _).2⟩
  · rw [hk]
    exact ⟨fun _ => ⟨hi, hidle⟩, nofun⟩

/-! ### The dispatcher -/

/-- SETH of a kind and FINIT are accepted in the foreground context alone (R94). -/
theorem presentCommand_foregroundFree {w : Word} {s t : State} (h : presentCommand w s = .next t)
    (hd : (∃ n sub k, decode w = .legal (.seth n sub) ∧ kindOf sub = some k) ∨ decode w = .legal .finit) :
    s.foregroundFree := by
  unfold presentCommand at h
  obtain ⟨n, sub, k, hd, hk⟩ | hd := hd
  · simp only [hd, exec, execSeth, hk] at h
    exact (acceptForeground_next h).1
  · simp only [hd, exec] at h
    exact (execFinit_next h).1

/-- A dispatcher Idle or in a scan, with the mask clear. -/
theorem Uart.DispatchSound.of_plain {u : Uart} (hp : u.dsp.phase = .idle ∨ ∃ k, u.dsp.phase = .scan k)
    (hm : u.masked = false) : u.DispatchSound := by
  obtain hp | ⟨k, hp⟩ := hp
  · exact ⟨by rw [hp]; exact hm, by simp [hp], by simp [hp]⟩
  · exact ⟨by rw [hp]; exact hm, by simp [hp], by simp [hp]⟩

/-- A dispatcher in the framing handler, the mask as its step requires. -/
theorem Uart.DispatchSound.of_framing {u : Uart} {f : FrameStep} (hp : u.dsp.phase = .frame f)
    (hm : u.masked = (DspPhase.frame f).inMaskedRegion)
    (hs : u.hslot.get .idle = .frame ∧ flag u.dsp.snap .idle = true) : u.DispatchSound :=
  ⟨by rw [hp]; exact hm, fun _ _ => hs, by simp [hp]⟩

/-- A move keeps a unit's dispatcher sound: SETH and FINIT, which write the table, are taken with it Idle (R45, R94). -/
theorem UnitStep.dispatchSound {s t : State} {i : Unit6} {m : Move} {v : Uart} (h : UnitStep s i m v)
    (ht : agentStep m s = .next t) (hslots : (s.uart i).SlotsSound s.par i) (hs : (s.uart i).DispatchSound) :
    v.DispatchSound := by
  have hmask : ∀ {p}, (s.uart i).dsp.phase = p → (s.uart i).masked = p.inMaskedRegion := fun hp => hp ▸ hs.masked
  cases h with
  | slot hd hi hk =>
    have hp := s.allIdle_iff.mp (presentCommand_foregroundFree ht (.inl ⟨_, _, _, hd, hk⟩)).1 i
    exact .of_plain (.inl hp) (hmask hp :)
  | finit hd hi hc ho hv =>
    have hp := s.allIdle_iff.mp (presentCommand_foregroundFree ht (.inr hd)).1 i
    obtain ⟨sr, rx, f, rfl⟩ := hv.eq_update
    exact .of_plain (.inl hp) (hmask hp :)
  | hret hd hi hp => exact .of_plain (by simpa using nextPhase_plain _) (by rw [Uart.finish_masked]; exact hmask hp)
  | enter hp => exact .of_plain (.inr ⟨_, rfl⟩) (hmask hp :)
  | advance hp => exact .of_plain (nextPhase_plain _) (hmask hp :)
  | finish hp => exact .of_plain (by simpa using nextPhase_plain _) (by rw [Uart.finish_masked]; exact hmask hp)
  | @framing k hp hf hk =>
    obtain rfl : k = .idle := ((hslots k).1 hk).2
    exact .of_framing rfl (hmask hp :) ⟨hk, hf⟩
  | handler hp hf hk =>
    exact ⟨(hmask hp :), nofun, fun j hj => by cases hj; exact ⟨hf, _, hk⟩⟩
  | f0 hp => exact .of_framing rfl rfl (hs.framing _ hp)
  | f1 hp | f2 hp | f3 hp => exact .of_framing rfl (hmask hp :) (hs.framing _ hp)
  | f4 hp hv =>
    obtain ⟨sr, rx, f, rfl⟩ := hv.eq_update
    exact .of_framing rfl (hmask hp :) (hs.framing _ hp)
  | f5 hp => exact .of_plain (by simpa using nextPhase_plain _) (by simp)
  | fgStartRx _ _ _ hv | rxLatched _ _ hv =>
    obtain ⟨sr, rx, f, rfl⟩ := hv.eq_update
    exact ⟨hs.masked, hs.framing, hs.handler⟩
  | _ => exact ⟨hs.masked, hs.framing, hs.handler⟩

/-! ### The channels -/

section
variable {c : Chan} {dir : XferDir} {memory device : Endpoint} {i : Unit6}

/-- A transfer just started (R130, R131). -/
theorem Chan.Sound.started (c : Chan) (dir : XferDir) (src dst : Endpoint) {len : Half} (circ : Bool) (prio : BitVec 2)
    (hlen : 1 ≤ len.toNat) (hdev : device = .dr i) (hmem : ∃ base, memory = .mem base) :
    Chan.Sound { c.arm dir src dst len circ prio with active := true } dir memory device i where
  descriptor _ := ⟨rfl, rfl, hdev, hmem⟩
  exclusive _ := rfl
  complete := nofun
  oneShot _ _ := ⟨by simp only [Chan.arm]; bv_omega, by simp [Chan.arm]⟩
  circular _ _ := by simp only [Chan.arm, BitVec.toNat_zero]; omega

/-- A byte moved by a transfer that ends at 0 (R133, R134, R137). -/
theorem Chan.Sound.txAdvance (h : c.Sound dir memory device i) (ha : c.active = true) (hc : c.circ = false) :
    c.txAdvance.Sound dir memory device i := by
  obtain ⟨hcnt, hsum⟩ := h.oneShot ha hc
  unfold Chan.txAdvance
  by_cases h0 : c.cnt - 1#16 = 0#16
  · simp only [h0, if_true]
    exact ⟨nofun, nofun, fun _ => ⟨rfl, hc⟩, nofun, nofun⟩
  · simp only [h0, if_false]
    refine ⟨h.descriptor, h.exclusive, fun hd => ?_, fun _ _ => ⟨h0, ?_⟩, fun _ hc' => ?_⟩
    · simp [h.exclusive ha] at hd
    · have := c.len.isLt
      bv_omega
    · rw [show c.circ = true from hc'] at hc; cases hc

/-- One-shot, the receive stream counts as the transmit stream does. -/
theorem Chan.rxAdvance_oneShot (hc : c.circ = false) : c.rxAdvance = c.txAdvance := by
  simp [Chan.rxAdvance, Chan.txAdvance, hc]

/-- A byte moved by a receive stream, one-shot or circular (R133, R137). -/
theorem Chan.Sound.rxAdvance (h : c.Sound dir memory device i) (ha : c.active = true) :
    c.rxAdvance.Sound dir memory device i := by
  cases hc : c.circ with
  | false =>
    rw [Chan.rxAdvance_oneShot hc]
    exact h.txAdvance ha hc
  | true =>
    have hoff := h.circular ha hc
    simp only [Chan.rxAdvance, hc, if_true]
    refine ⟨h.descriptor, h.exclusive, fun hd => ?_, fun _ hc' => ?_, fun _ _ => ?_⟩
    · simp [h.exclusive ha] at hd
    · simp at hc'
    · rw [BitVec.toNat_ofNat]
      exact (Nat.mod_le _ _).trans_lt (Nat.mod_lt _ (by omega))

/-- The completion callback (R135). -/
theorem Chan.Sound.callback (h : c.Sound dir memory device i) :
    Chan.Sound { c with done := false } dir memory device i :=
  ⟨h.descriptor, fun _ => rfl, nofun, h.oneShot, h.circular⟩

/-- The stream stopped by F1 (R178). -/
theorem Chan.Sound.stopped (h : c.Sound dir memory device i) :
    Chan.Sound { c with active := false } dir memory device i :=
  ⟨nofun, nofun, h.complete, nofun, nofun⟩

end

section
variable {i : Unit6} {u v : Uart}

/-- The soundness of a unit's channels depends on its channels alone. -/
theorem Uart.ChannelsSound.congr (h : u.ChannelsSound i) (hc : v.ch = u.ch) : v.ChannelsSound i := by
  obtain ⟨hrx, htx, hlin⟩ := h
  rw [← hc] at hrx htx hlin
  exact ⟨hrx, htx, hlin⟩

theorem Uart.ChannelsSound.setRx (h : u.ChannelsSound i) {c : Chan} (hc : c.Sound .periphToMem c.dst c.src i) :
    (u.setCh .rx c).ChannelsSound i := ⟨hc, h.tx, h.txLinear⟩

theorem Uart.ChannelsSound.setTx (h : u.ChannelsSound i) {c : Chan} (hc : c.Sound .memToPeriph c.src c.dst i)
    (hlin : c.active = true → c.circ = false) : (u.setCh .tx c).ChannelsSound i := ⟨h.rx, hc, hlin⟩

theorem Chan.Sound.rxAdvance_rx {c : Chan} (h : c.Sound .periphToMem c.dst c.src i) (ha : c.active = true) :
    c.rxAdvance.Sound .periphToMem c.rxAdvance.dst c.rxAdvance.src i := by
  obtain ⟨-, -, hsrc, hdst, -⟩ := c.rxAdvance_descriptor
  rw [hsrc, hdst]
  exact h.rxAdvance ha

theorem Chan.Sound.txAdvance_tx {c : Chan} (h : c.Sound .memToPeriph c.src c.dst i) (ha : c.active = true)
    (hc : c.circ = false) : c.txAdvance.Sound .memToPeriph c.txAdvance.src c.txAdvance.dst i := by
  obtain ⟨-, -, hsrc, hdst, -⟩ := c.txAdvance_descriptor
  rw [hsrc, hdst]
  exact h.txAdvance ha hc

theorem Uart.rxTakes_active (h : u.rxTakes = true) : u.ch.rx.active = true := by
  simp only [Uart.rxTakes, Bool.and_eq_true] at h
  exact h.1.1.2

theorem Uart.Serviced.channelsSound {p : Params} (h : u.Serviced p v) (hu : u.ChannelsSound i) :
    v.ChannelsSound i := by
  obtain ⟨-, rfl⟩ | ⟨ht, rfl⟩ | ⟨-, f, -, rfl⟩ := h
  · exact hu
  · exact (hu.congr (v := u.takeRdr) rfl).setRx (hu.rx.rxAdvance_rx (Uart.rxTakes_active ht))
  · exact hu.congr rfl

end

end Sys2Proof.Machine
end

section
/-! PROOFS. The invariant of the machine: every unit's channels, and the framing unit's stream over the window
(R130 to R137, R171 to R182). -/

namespace Sys2Proof.Machine

/-- A dispatcher in the framing handler is the framing unit's, and FINIT has succeeded (R171, R176). -/
theorem State.Inv.framing_started {s : State} (hinv : s.Inv) {i : Unit6} {f : FrameStep}
    (hp : (s.uart i).dsp.phase = .frame f) : i = s.par.frameUnit ∧ s.frame.init = true := by
  obtain rfl := hinv.framing_unit hp
  exact ⟨rfl, hinv.framing.handler ((hinv.dispatch _).framing f hp).1⟩

/-- A stream that is neither active nor complete (R130). -/
theorem Chan.Sound.of_idle {c : Chan} {dir : XferDir} {memory device : Endpoint} {i : Unit6} (ha : c.active = false)
    (hd : c.done = false) : c.Sound dir memory device i :=
  ⟨by simp [ha], by simp [ha], by simp [hd], by simp [ha], by simp [ha]⟩

/-- Under the invariant every change of a unit keeps its channels sound. -/
theorem UnitStep.channelsSound {s : State} {i : Unit6} {m : Move} {v : Uart} (h : UnitStep s i m v) (hinv : s.Inv) :
    v.ChannelsSound i := by
  have hs := hinv.channels i
  have hcap : 1 ≤ s.par.frameCap.toNat := of_decide_eq_true hinv.params
  cases h with
  | @finit w c brr v hd hi hc ho hv =>
    have hu : ((s.uart i).framed c brr).ChannelsSound i := hs.congr rfl
    exact hv.channelsSound (hu.setRx (Chan.Sound.started _ _ _ _ true s.par.prioRx hcap rfl ⟨_, rfl⟩))
  | @fgStartTx len buf hop hp =>
    obtain ⟨-, hsound⟩ := (State.fgSound_send hop).mp hinv.fg
    rw [hp] at hsound
    obtain ⟨hlen, -⟩ := hsound
    exact hs.setTx (Chan.Sound.started _ _ _ _ false s.par.prioTx (by omega) rfl ⟨_, rfl⟩) fun _ => rfl
  | @fgStartRx circ len buf v hop hp ho hv =>
    have hfg := hinv.fg
    simp only [State.FgSound, hop, hp] at hfg
    obtain ⟨-, ⟨hlen, -⟩, -⟩ := hfg
    exact hv.channelsSound (hs.setRx (Chan.Sound.started _ _ _ _ circ s.par.prioRx hlen rfl ⟨_, rfl⟩))
  | f1 hp => exact (hs.setRx hs.rx.stopped).congr rfl
  | f3 hp =>
    obtain ⟨rfl, hinit⟩ := hinv.framing_started hp
    obtain ⟨-, -, -, -, -, -, -, hdone, -⟩ := hinv.framing.window hinit
    have hactive := hinv.framing.stream hinit
    rw [hp] at hactive
    refine .congr (hs.setRx ?_) rfl
    exact Chan.Sound.of_idle hactive hdone
  | f4 hp hv =>
    obtain ⟨rfl, hinit⟩ := hinv.framing_started hp
    obtain ⟨hdir, hwidth, hsrc, hdst, hlen, hcirc, -, hdone, -⟩ := hinv.framing.window hinit
    refine hv.channelsSound (.congr (hs.setRx ?_) rfl)
    refine ⟨fun _ => ⟨hdir, hwidth, hsrc, _, hdst⟩, fun _ => hdone, fun hd => ?_, fun _ hc => ?_, fun _ _ => ?_⟩
    · exact absurd hd (by simp [hdone])
    · exact absurd hc (by simp [hcirc])
    · simp only [hlen, BitVec.toNat_zero]; omega
  | txMove b hg =>
    simp only [Uart.txMoveEnabled, Bool.and_eq_true] at hg
    have ha : (s.uart i).ch.tx.active = true := hg.1.1.2
    have hc := hs.txLinear ha
    have hu : ((s.uart i).writeTdr b).ChannelsSound i := hs.congr rfl
    refine hu.setTx (hs.tx.txAdvance_tx ha hc) fun _ => ?_
    obtain ⟨-, -, -, -, -, hcirc, -⟩ := (s.uart i).ch.tx.txAdvance_descriptor
    exact hcirc.trans hc
  | @dmaDone d hg hn =>
    cases d with
    | rx => exact (hs.setRx hs.rx.callback).congr rfl
    | tx => exact (hs.setTx hs.tx.callback hs.txLinear).congr rfl
  | rxLatched hu hf hv => exact hv.channelsSound (hs.congr rfl)
  | hret | finish | f5 => exact hs.congr (by simp)
  | _ => exact hs.congr rfl

/-! ### The framing unit -/

/-- The foreground takes a step in the foreground context alone (R17). -/
theorem foregroundStep_allIdle {s t : State} (h : foregroundStep s = .next t) (i : Unit6) :
    (s.uart i).dsp.phase = .idle := by
  unfold foregroundStep at h
  split at h
  · next hm => exact s.allIdle_iff.mp (s.foregroundMayAct_iff.mp hm).1 i
  · cases h

/-- The receive channel FINIT leaves: a circular descriptor over the window, without completion (R171, R178). -/
def Chan.OverWindow (c : Chan) (p : Params) : Prop :=
  c.dir = .periphToMem ∧ c.width = 0#2 ∧ c.src = .dr p.frameUnit ∧ c.dst = .mem p.winBase ∧ c.len = p.frameCap ∧
    c.circ = true ∧ c.prio = p.prioRx ∧ c.done = false ∧ c.off.toNat < p.frameCap.toNat

/-- The framing unit's stream over the window, running but between F1 and F4 (R178, R181). -/
def Uart.StreamSound (u : Uart) (p : Params) : Prop :=
  u.ch.rx.OverWindow p ∧ u.ch.rx.active = !u.dsp.phase.streamStopped

/-- A byte stored over the window leaves its offset in the window (R137). -/
theorem Chan.OverWindow.rxAdvance {c : Chan} {p : Params} (h : c.OverWindow p) : c.rxAdvance.OverWindow p := by
  obtain ⟨hdir, hwidth, hsrc, hdst, hlen, hcirc, hprio, hdone, hoff⟩ := h
  simp only [Chan.rxAdvance, hcirc, if_true]
  refine ⟨hdir, hwidth, hsrc, hdst, hlen, rfl, hprio, hdone, ?_⟩
  simp only [BitVec.toNat_ofNat, hlen]
  exact (Nat.mod_le _ _).trans_lt (Nat.mod_lt _ (by omega))

theorem Uart.Serviced.streamSound {p q : Params} {u v : Uart} (h : u.Serviced p v) (hu : u.StreamSound q) :
    v.StreamSound q := by
  obtain ⟨-, rfl⟩ | ⟨-, rfl⟩ | ⟨-, f, -, rfl⟩ := h
  · exact hu
  · obtain ⟨hw, ha⟩ := hu
    exact ⟨hw.rxAdvance, (Chan.rxAdvance_circular hw.2.2.2.2.2.1).1.trans ha⟩
  · exact hu

theorem nextPhase_streamStopped (k : EventKind) : (nextPhase k).streamStopped = false := by cases k <;> rfl

/-- Once FINIT has succeeded, every change of the framing unit keeps its stream over the window. -/
theorem UnitStep.streamSound {s t : State} {i : Unit6} {m : Move} {v : Uart} (h : UnitStep s i m v)
    (ht : agentStep m s = .next t) (hb : (s.uart i).cfgv = true) (hs : (s.uart i).StreamSound s.par) :
    v.StreamSound s.par := by
  have ⟨hwindow, hactive⟩ := hs
  obtain ⟨hdir, hwidth, hsrc, hdst, hlen, hcirc, hprio, hdone, hoff⟩ := hwindow
  have hact : ∀ {p}, (s.uart i).dsp.phase = p → (s.uart i).ch.rx.active = !p.streamStopped := fun hp => hp ▸ hactive
  cases h with
  | finit hd hi hc => simp [hb] at hc
  | fgStartRx hop hp ho =>
    have hrun := hact (foregroundStep_allIdle ht i)
    simp [Chan.outstanding, hrun, DspPhase.streamStopped] at ho
  | enter hp | framing hp | handler hp | f0 hp => exact ⟨hs.1, (hact hp :)⟩
  | advance hp => exact ⟨hs.1, (hact hp).trans (congrArg _ (nextPhase_streamStopped _).symm)⟩
  | hret _ _ hp | finish hp | f5 hp =>
    simp only [Uart.StreamSound, Uart.finish_ch, Uart.finish_dsp, nextPhase_streamStopped]
    exact ⟨hs.1, (hact hp :)⟩
  | f1 hp => exact ⟨hs.1, rfl⟩
  | f2 hp => exact ⟨hs.1, (hact hp :)⟩
  | f3 hp => exact ⟨hs.1, (hact hp :)⟩
  | f4 hp hv =>
    refine hv.streamSound ⟨⟨hdir, hwidth, hsrc, hdst, hlen, hcirc, hprio, hdone, ?_⟩, rfl⟩
    exact (Nat.zero_le _).trans_lt hoff
  | @dmaDone d hg hn =>
    cases d with
    | rx => exact absurd hg (by simp [hdone])
    | tx => exact hs
  | rxLatched hu hf hv => exact hv.streamSound hs
  | _ => exact hs

/-- The captured length is at most the capacity (R179). -/
theorem capturedLength_le (cap cnt : Half) : (capturedLength cap cnt).toNat ≤ cap.toNat := by
  unfold capturedLength
  split
  · assumption
  · exact le_rfl

/-- The length a framing handler has captured is at most the capacity (R179). -/
def Uart.CaptureSound (u : Uart) (p : Params) : Prop :=
  ∀ f, u.dsp.phase = .frame f → f = .f3 ∨ f = .f4 ∨ f = .f5 → u.dsp.flen.toNat ≤ p.frameCap.toNat

theorem Uart.CaptureSound.of_plain {u : Uart} {p : Params} (hp : u.dsp.phase = .idle ∨ ∃ k, u.dsp.phase = .scan k) :
    u.CaptureSound p := by
  obtain hp | ⟨k, hp⟩ := hp <;> simp [Uart.CaptureSound, hp]

/-- F2 captures a length within the capacity, and F3 and F4 keep it (R179). -/
theorem UnitStep.captureSound {s : State} {i : Unit6} {m : Move} {v : Uart} (h : UnitStep s i m v)
    (hs : (s.uart i).CaptureSound s.par) : v.CaptureSound s.par := by
  cases h with
  | finit _ _ _ _ hv | fgStartRx _ _ _ hv | rxLatched _ _ hv =>
    obtain ⟨sr, rx, f, rfl⟩ := hv.eq_update
    exact hs
  | enter hp => exact .of_plain (.inr ⟨_, rfl⟩)
  | advance hp => exact .of_plain (nextPhase_plain _)
  | hret | finish | f5 => exact .of_plain (by simpa using nextPhase_plain _)
  | handler => exact nofun
  | framing | f0 | f1 => intro f hf hcase; cases hf; simp at hcase
  | f2 hp => exact fun _ _ _ => capturedLength_le _ _
  | f3 hp => exact fun _ _ _ => hs .f3 hp (.inl rfl)
  | f4 hp hv =>
    obtain ⟨sr, rx, f, rfl⟩ := hv.eq_update
    exact fun _ _ _ => hs .f4 hp (.inr (.inl rfl))
  | _ => exact hs

end Sys2Proof.Machine
end

section
/-! PROOFS. The invariant of the machine: the framing protocol, and what every other agent leaves to the foreground
operation in progress (R27, R54, R121 to R125, R171 to R182). -/

namespace Sys2Proof.Machine

/-- The move presents FINIT. -/
def Move.IsFinit (m : Move) : Prop := ∃ w, m = .hostCommand w ∧ decode w = .legal .finit

/-- FRAME.init is kept, and FRAME.len is kept or becomes the length a framing handler has captured (R173, R182). -/
def State.FrameKept (s t : State) : Prop :=
  t.frame.init = s.frame.init ∧
  (t.frame.len = s.frame.len ∨ ∃ i, (s.uart i).dsp.phase = .frame .f5 ∧ t.frame.len = (s.uart i).dsp.flen)

theorem State.FrameKept.of_eq {s t : State} (h : t.frame = s.frame) : s.FrameKept t := ⟨by rw [h], .inl (by rw [h])⟩

theorem unitMove_frame {s t : State} {m : Move} {i : Unit6} (hi : m.unit = some i) (h : agentStep m s = .next t) :
    s.FrameKept t := by
  obtain ⟨e, rfl, -, hid | ⟨hp, hc⟩⟩ := unitMove_effect (.refl s i) hi h
  · exact .of_eq (by simp [UnitEffect.apply, hid])
  · simp only [State.FrameKept, UnitEffect.apply, hc]
    exact ⟨rfl, .inr ⟨i, hp, rfl⟩⟩

/-- Every move but FINIT keeps FRAME.init, and FRAME.len but for the framing handler's last step. -/
theorem agentStep_frame {s t : State} {m : Move} (h : agentStep m s = .next t) (hm : ¬ m.IsFinit) :
    s.FrameKept t := by
  cases m with
  | hostOperand n v =>
    obtain ⟨q, rfl⟩ := hostOperandStep_next h
    exact .of_eq rfl
  | hostStore a b =>
    obtain ⟨m, -, rfl⟩ | ⟨-, rfl⟩ := hostStoreStep_next h
    · exact .of_eq rfl
    · exact .of_eq (s.stickHost_frame _)
  | hostCommand w =>
    obtain ⟨i, hd, he⟩ | rfl := presentCommand_next h
    · exact .of_eq ((exec_presentFrame he).frame fun hi => hm ⟨w, rfl, hi ▸ hd⟩)
    · exact .of_eq rfl
  | foreground =>
    obtain he | he := (foregroundStep_effect h).frame
    · exact .of_eq he
    · exact ⟨by rw [he], .inl (by rw [he])⟩
  | dispatcher i | txMove i | dmaDone i d | rxByte i b | idleEvent i | txShift i | ctsEvent i | breakEvent i
  | parityEvent i => exact unitMove_frame rfl h

/-- FINIT's success puts the framing unit where the protocol's invariant has it (R171). -/
theorem State.afterFinit_framingSound {s : State} (hpar : s.par.wf = true) (hf : s.foregroundFree) (brr : Half) :
    (s.afterFinit brr).FramingSound ((s.afterFinit brr).uart s.par.frameUnit) := by
  have hcap : 1 ≤ s.par.frameCap.toNat := of_decide_eq_true hpar
  have hu : (s.afterFinit brr).uart s.par.frameUnit = s.finitUart brr := s.setFraming_uart _
  have hp : (s.finitUart brr).dsp.phase = .idle := s.allIdle_iff.mp hf.1 _
  rw [hu]
  exact
    { handler := fun _ => rfl
      bound := fun _ => ⟨rfl, rfl⟩
      window := fun _ => ⟨rfl, rfl, rfl, rfl, rfl, rfl, rfl, rfl, hcap⟩
      stream := fun _ => by rw [hp]; rfl
      length := fun _ => Nat.zero_le _
      flen := fun f h => by rw [hp] at h; cases h }

theorem execFinit_framingSound {s t : State} (hpar : s.par.wf = true) (hs : s.FramingSound (s.uart s.par.frameUnit))
    (h : execFinit s = .next t) : t.FramingSound (t.uart s.par.frameUnit) := by
  obtain ⟨hf, rfl | ⟨brr, -, -, rfl⟩⟩ := execFinit_next h
  · exact { hs with }
  · exact State.afterFinit_framingSound hpar hf brr

/-- Every move but FINIT keeps the framing protocol's invariant. -/
theorem agentStep_framingSound_of_not_finit {s t : State} {m : Move} (hinv : s.Inv) (h : agentStep m s = .next t)
    (hm : ¬ m.IsFinit) : t.FramingSound (t.uart s.par.frameUnit) := by
  have hs := hinv.framing
  have hpar := (agentStep_par_trace h).1
  have hu := agentStep_unit s.par.frameUnit h
  obtain ⟨hinit, hlen⟩ := agentStep_frame h hm
  have hstream : t.frame.init = true → (t.uart s.par.frameUnit).StreamSound t.par := fun hi => by
    rw [hinit] at hi
    rw [hpar]
    exact hu.streamSound h (hs.bound hi).1 ⟨hs.window hi, hs.stream hi⟩
  refine ⟨fun hslot => ?_, fun hi => ?_, fun hi => (hstream hi).1, fun hi => (hstream hi).2, fun hi => ?_, ?_⟩
  · rw [hinit]
    obtain hk | ⟨w, rfl, ⟨n, sub, -, -, -, hk⟩ | ⟨hd, -⟩⟩ := hu.slotWrite .idle
    · exact hs.handler (hk ▸ hslot)
    · exact absurd (hk.symm.trans hslot) (slotOfToken_plain _).1
    · exact (hm ⟨w, rfl, hd⟩).elim
  · have ⟨hb, hcfg⟩ := hs.bound (hinit ▸ hi)
    obtain ⟨hb', hcfg', -⟩ | ⟨hc, -⟩ := hu.binding
    · rw [hb', hcfg']
      exact ⟨hb, hcfg⟩
    · simp [hb] at hc
  · rw [hpar]
    obtain hl | ⟨i, hp, hl⟩ := hlen
    · rw [hl]
      exact hs.length (hinit ▸ hi)
    · rw [hl]
      obtain rfl := hinv.framing_unit hp
      exact hs.flen .f5 hp (.inr (.inr rfl))
  · rw [hpar]
    exact hu.captureSound hs.flen

/-- Every move keeps the framing protocol's invariant. -/
theorem agentStep_framingSound {s t : State} {m : Move} (hinv : s.Inv) (h : agentStep m s = .next t) :
    t.FramingSound (t.uart s.par.frameUnit) := by
  by_cases hm : m.IsFinit
  · obtain ⟨w, rfl, hd⟩ := hm
    have hs : State.FramingSound { s with cmd := w } (s.uart s.par.frameUnit) := { hinv.framing with }
    obtain ⟨x, hx, he⟩ | rfl := presentCommand_next h
    · cases hx.symm.trans hd
      exact execFinit_framingSound (s := { s with cmd := w }) hinv.params hs he
    · exact { hs with }
  · exact agentStep_framingSound_of_not_finit hinv h hm

/-! ### The foreground operation in progress -/

theorem Chan.txAdvance_outstanding {c : Chan} (h : c.active = true) : c.txAdvance.outstanding = true := by
  unfold Chan.txAdvance Chan.outstanding
  dsimp only
  split <;> simp [h]

theorem Uart.Serviced.rx_outstanding {p : Params} {u v : Uart} (h : u.Serviced p v)
    (ho : u.ch.rx.outstanding = true) : v.ch.rx.outstanding = true := by
  obtain ⟨-, rfl⟩ | ⟨ht, rfl⟩ | ⟨-, f, -, rfl⟩ := h
  · exact ho
  · exact Chan.rxAdvance_outstanding (Uart.rxTakes_active ht)
  · exact ho

/-- A wait for a CompletionSignal is a wait for something outstanding: a transfer, or the signal itself (R121, R122). -/
def Uart.Pending (u : Uart) (d : Dir) : Prop := (u.ch.get d).outstanding = true ∨ u.sig.get d = true

/-- What other agents leave to the foreground operation of a unit: a usable binding, the signals set, and, but for the
framing unit's stream, what is pending (R54, R121 to R125). -/
structure State.Sustains (s : State) (i : Unit6) (v : Uart) : Prop where
  usable  : (s.uart i).usable = true → v.usable = true ∧ v.cfg = (s.uart i).cfg
  signal  : ∀ d, (s.uart i).sig.get d = true → v.sig.get d = true
  pending : ∀ d, (d = .rx → s.frame.init = true → i ≠ s.par.frameUnit) → (s.uart i).Pending d → v.Pending d

/-- What is pending stays pending under every other agent's step, but for the framing handler stopping its own
stream (R178). -/
theorem UnitStep.pending {s : State} {i : Unit6} {m : Move} {v : Uart} (h : UnitStep s i m v) (hinv : s.Inv)
    (hfg : m ≠ .foreground) (hm : ¬ m.IsFinit) {d : Dir} (hd : d = .rx → s.frame.init = true → i ≠ s.par.frameUnit)
    (hs : (s.uart i).Pending d) : v.Pending d := by
  have hframing : ∀ {f}, (s.uart i).dsp.phase = .frame f → d = .tx := by
    intro f hp
    obtain ⟨hi, hinit⟩ := hinv.framing_started hp
    cases d with
    | rx => exact (hd rfl hinit hi).elim
    | tx => rfl
  cases h with
  | finit hdec => exact (hm ⟨_, rfl, hdec⟩).elim
  | fgWrite | fgTake | fgStartTx | fgStartRx | fgSigTx | fgSigRx => exact (hfg rfl).elim
  | f1 hp | f3 hp => cases hframing hp; exact hs
  | f4 hp hv =>
    cases hframing hp
    obtain ⟨sr, rx, f, rfl⟩ := hv.eq_update
    exact hs
  | f5 hp =>
    cases hframing hp
    simpa [Uart.Pending] using hs
  | txMove b hg =>
    cases d with
    | rx => exact hs
    | tx =>
      simp only [Uart.txMoveEnabled, Bool.and_eq_true] at hg
      exact .inl (Chan.txAdvance_outstanding hg.1.1.2)
  | @dmaDone e =>
    cases e <;> cases d
    · exact .inr rfl
    · exact hs
    · exact hs
    · exact .inr rfl
  | rxLatched hu hf hv =>
    cases d with
    | rx =>
      refine hs.imp hv.rx_outstanding fun hsig => ?_
      obtain ⟨sr, rx, f, rfl⟩ := hv.eq_update
      exact hsig
    | tx =>
      obtain ⟨sr, rx, f, rfl⟩ := hv.eq_update
      exact hs
  | hret | finish => simpa [Uart.Pending] using hs
  | _ => exact hs

/-- Every other agent's move leaves the foreground operation what it needs of a unit (R54). -/
theorem UnitStep.sustains {s : State} {i : Unit6} {m : Move} {v : Uart} (h : UnitStep s i m v) (hinv : s.Inv)
    (hfg : m ≠ .foreground) (hm : ¬ m.IsFinit) : s.Sustains i v := by
  have hsig : ∀ d, (s.uart i).sig.get d = true → v.sig.get d = true := by
    intro d hd
    obtain hk | ⟨hset, -⟩ | ⟨-, ⟨hm', -⟩ | ⟨hm', -⟩ | ⟨-, -, hfinit⟩⟩ := h.signal d
    · rw [hk, hd]
    · exact hset
    · exact (hfg hm').elim
    · exact (hfg hm').elim
    · exact (hm hfinit).elim
  refine ⟨fun hu => ?_, hsig, fun d hd => h.pending hinv hfg hm hd⟩
  have hb : (s.uart i).cfgv = true := by
    simp only [Uart.usable, Bool.and_eq_true] at hu
    exact hu.1
  obtain ⟨hb', hcfg', -⟩ | ⟨hc, -⟩ := h.binding
  · exact ⟨by rw [Uart.usable, hb', hcfg']; exact hu, hcfg'⟩
  · simp [hb] at hc

/-- No operation in progress, nothing to be sound (R27). -/
theorem State.fgSound_of_none {s : State} (h : s.fg.op = none) : s.FgSound := by
  unfold State.FgSound
  rw [h]
  trivial

theorem State.fgSound_recv {s : State} {i : Unit6} {circ : Bool} {len : Half} {buf : Word}
    (hop : s.fg.op = some (.recv i circ len buf)) :
    s.FgSound ↔ (s.uart i).usable = true ∧ (s.uart i).RecvSound circ len s.fg.k s.fg.phase ∧
      (s.fg.phase = .d2 ∨ s.fg.phase = .d3 → s.frame.init = true → i ≠ s.par.frameUnit) := by
  unfold State.FgSound
  rw [hop]

/-- SEND and FSEND stay at a sound label while other agents move (R121). -/
theorem State.Sustains.send {s : State} {i : Unit6} {v : Uart} (h : s.Sustains i v) {len : Half}
    (hs : (s.uart i).usable = true ∧ (s.uart i).SendSound len s.fg.k s.fg.phase) :
    v.usable = true ∧ v.SendSound len s.fg.k s.fg.phase := by
  obtain ⟨hu, hsound⟩ := hs
  obtain ⟨hu', hcfg⟩ := h.usable hu
  have hdma : v.dmaTx = (s.uart i).dmaTx := by rw [Uart.dmaTx, hcfg]; rfl
  refine ⟨hu', ?_⟩
  cases hp : s.fg.phase <;> rw [hp] at hsound <;> simp only [Uart.SendSound, hdma] at hsound ⊢
  case d2 => exact ⟨hsound.1, hsound.2.1, h.pending .tx nofun hsound.2.2⟩
  case d3 => exact ⟨hsound.1, hsound.2.1, h.signal .tx hsound.2.2⟩
  all_goals exact hsound

/-- RECV stays at a sound label while other agents move (R122). -/
theorem State.Sustains.recv {s : State} {i : Unit6} {v : Uart} (h : s.Sustains i v) {circ : Bool} {len : Half}
    (hs : (s.uart i).usable = true ∧ (s.uart i).RecvSound circ len s.fg.k s.fg.phase)
    (hi : s.fg.phase = .d2 ∨ s.fg.phase = .d3 → s.frame.init = true → i ≠ s.par.frameUnit) :
    v.usable = true ∧ v.RecvSound circ len s.fg.k s.fg.phase := by
  obtain ⟨hu, hsound⟩ := hs
  obtain ⟨hu', hcfg⟩ := h.usable hu
  have hdma : v.dmaRx = (s.uart i).dmaRx := by rw [Uart.dmaRx, hcfg]; rfl
  refine ⟨hu', ?_⟩
  cases hp : s.fg.phase <;> rw [hp] at hsound <;> simp only [Uart.RecvSound, hdma] at hsound ⊢
  case d2 => exact ⟨hsound.1, hsound.2.1, h.pending .rx (fun _ => hi (.inl hp)) hsound.2.2⟩
  case d3 => exact ⟨hsound.1, hsound.2.1, h.signal .rx hsound.2.2⟩
  all_goals exact hsound

/-- A move of another agent that keeps FG keeps the operation in progress sound. -/
theorem State.FgSound.sustained {s t : State} (h : s.FgSound) (hfg : t.fg = s.fg) (hpar : t.par = s.par)
    (hinit : t.frame.init = s.frame.init) (hu : ∀ i, s.Sustains i (t.uart i)) : t.FgSound := by
  cases hop : s.fg.op with
  | none => exact State.fgSound_of_none (by rw [hfg, hop])
  | some op =>
    unfold State.FgSound at h ⊢
    rw [hfg, hpar, hinit]
    rw [hop] at h ⊢
    cases op with
    | send i len buf => exact (hu i).send h
    | recv i circ len buf =>
      obtain ⟨husable, hsound, hi⟩ := h
      obtain ⟨husable', hsound'⟩ := (hu i).recv ⟨husable, hsound⟩ hi
      exact ⟨husable', hsound', hi⟩
    | sendb i b => exact ⟨((hu i).usable h.1).1, h.2⟩
    | recvb i => exact ⟨((hu i).usable h.1).1, h.2⟩
    | fsend len buf => exact (hu _).send h
    | frecv buf =>
      obtain ⟨hi, hsound⟩ := h
      refine ⟨hi, ?_⟩
      cases hp : s.fg.phase <;> rw [hp] at hsound <;> simp only [State.FrecvSound, hfg, hpar] at hsound ⊢
      case w2 => exact (hu _).signal .rx hsound
      all_goals exact hsound

end Sys2Proof.Machine
end

section
/-! PROOFS. The invariant of the machine: the foreground's own step, the recorded faults, and all parts together
(R27, R61, R121 to R125, R172, R173). -/

namespace Sys2Proof.Machine

/-! ### The foreground's own step -/

/-- A label of SEND or FSEND reached with its unit as v. -/
theorem State.fgSound_send_of {t : State} {i : Unit6} {len k : Half} {buf : Word} {v : Uart} {p : FgPhase}
    (hop : t.fg.op = some (.send i len buf) ∨ (t.fg.op = some (.fsend len buf) ∧ i = t.par.frameUnit))
    (hv : t.uart i = v) (hk : t.fg.k = k) (hp : t.fg.phase = p) (hs : v.usable = true ∧ v.SendSound len k p) :
    t.FgSound := by
  subst hv hk hp
  exact (State.fgSound_send hop).mpr hs

/-- SEND's and FSEND's step ends at a sound label (R121). -/
theorem sendStep_fgSound {s t : State} {name : OpName} {i : Unit6} {len : Half} {buf : Word}
    (hop : s.fg.op = some (.send i len buf) ∨ (s.fg.op = some (.fsend len buf) ∧ i = s.par.frameUnit))
    (hs : s.FgSound) (h : sendStep name i len buf s = .next t) : t.FgSound := by
  obtain ⟨hu, hsound⟩ := (State.fgSound_send hop).mp hs
  unfold sendStep at h
  cases hp : s.fg.phase <;> rw [hp] at h hsound <;> dsimp only at h
  case p1 =>
    split at h <;> cases h
    · exact hs
    · exact State.fgSound_send_of hop (State.uart_setUart_same _ _ _) rfl rfl ⟨hu, hsound⟩
  case p2 =>
    split at h <;> cases h
    · exact State.fgSound_send_of hop rfl rfl rfl ⟨hu, hsound⟩
    · exact hs
  case p3 =>
    obtain ⟨-, hpath⟩ := hsound
    split at h <;> cases h
    · next hk => exact State.fgSound_send_of hop rfl rfl rfl ⟨hu, hk, hpath⟩
    · exact State.fgSound_of_none rfl
  case d1 =>
    obtain ⟨hlen, hdma⟩ := hsound
    obtain ⟨s1, h1, h2⟩ := Out.andThen_eq_next h
    obtain ⟨-, rfl⟩ := armTrigger_tx_next h1
    cases h2
    exact State.fgSound_send_of hop (State.uart_setUart_same _ _ _) rfl rfl ⟨hu, hlen, hdma, .inl rfl⟩
  case d2 =>
    obtain ⟨hlen, hdma, -⟩ := hsound
    split at h <;> cases h
    · next hsig => exact State.fgSound_send_of hop rfl rfl rfl ⟨hu, hlen, hdma, hsig⟩
    · exact hs
  case d3 => cases h; exact State.fgSound_of_none rfl
  all_goals cases h

/-- A label of RECV reached with its unit as v. -/
theorem State.fgSound_recv_of {t : State} {i : Unit6} {circ : Bool} {len k : Half} {buf : Word} {v : Uart} {p : FgPhase}
    (hop : t.fg.op = some (.recv i circ len buf)) (hv : t.uart i = v) (hk : t.fg.k = k) (hp : t.fg.phase = p)
    (hs : v.usable = true ∧ v.RecvSound circ len k p ∧
      (p = .d2 ∨ p = .d3 → t.frame.init = true → i ≠ t.par.frameUnit)) : t.FgSound := by
  subst hv hk hp
  exact (State.fgSound_recv hop).mpr hs

/-- RECV never waits for the framing unit's stream: that stream runs while every dispatcher is Idle, and so its channel
cannot be armed again (R138, R171). -/
theorem State.FramingSound.not_framing_unit {s : State} (hs : s.FramingSound (s.uart s.par.frameUnit)) {i : Unit6}
    (hidle : (s.uart i).dsp.phase = .idle) (ho : (s.uart i).ch.rx.outstanding = false) (hi : s.frame.init = true) :
    i ≠ s.par.frameUnit := by
  rintro rfl
  have ha := hs.stream hi
  rw [hidle] at ha
  simp [Chan.outstanding, ha, DspPhase.streamStopped] at ho

/-- RECV's step ends at a sound label (R122). -/
theorem recvStep_fgSound {s t : State} {i : Unit6} {circ : Bool} {len : Half} {buf : Word}
    (hop : s.fg.op = some (.recv i circ len buf)) (hinv : s.Inv) (hidle : (s.uart i).dsp.phase = .idle)
    (h : recvStep i circ len buf s = .next t) : t.FgSound := by
  have hs := hinv.fg
  obtain ⟨hu, hsound, hframe⟩ := (State.fgSound_recv hop).mp hs
  unfold recvStep at h
  cases hp : s.fg.phase <;> rw [hp] at h hsound hframe <;> dsimp only at h
  case p1 =>
    split at h <;> cases h
    · exact State.fgSound_recv_of hop rfl rfl rfl ⟨hu, hsound, nofun⟩
    · exact hs
  case p2 =>
    split at h
    · cases h; exact hs
    · split at h <;> cases h
      · next hk =>
        exact State.fgSound_recv_of hop (State.uart_setUart_same _ _ _) rfl rfl ⟨hu, ⟨hk, hsound.2⟩, nofun⟩
      · exact State.fgSound_of_none rfl
  case d1 =>
    obtain ⟨s1, h1, h2⟩ := Out.andThen_eq_next h
    obtain ⟨ho, v, m, hv, rfl⟩ := armTrigger_rx_next h1
    split at h2 <;> cases h2
    · exact State.fgSound_of_none rfl
    · next hc =>
      have hpend : v.ch.rx.outstanding = true := hv.rx_outstanding rfl
      obtain ⟨sr, rx, f, rfl⟩ := hv.eq_update
      refine State.fgSound_recv_of hop (State.uart_setUart_same _ _ _) rfl rfl ⟨hu, ?_, fun _ => ?_⟩
      · exact ⟨by simpa using hc, hsound.2, .inl hpend⟩
      · exact hinv.framing.not_framing_unit hidle ho
  case d2 =>
    obtain ⟨hc, hdma, -⟩ := hsound
    split at h <;> cases h
    · next hsig =>
      exact State.fgSound_recv_of hop rfl rfl rfl ⟨hu, ⟨hc, hdma, hsig⟩, fun _ => hframe (.inl rfl)⟩
    · exact hs
  case d3 => cases h; exact State.fgSound_of_none rfl
  all_goals cases h

theorem State.fgSound_frecv {s : State} {buf : Word} (hop : s.fg.op = some (.frecv buf)) :
    s.FgSound ↔ s.frame.init = true ∧ s.FrecvSound (s.uart s.par.frameUnit) s.fg.phase := by
  unfold State.FgSound
  rw [hop]

/-- A label of FRECV reached. -/
theorem State.fgSound_frecv_of {t : State} {buf : Word} {p : FgPhase} (hop : t.fg.op = some (.frecv buf))
    (hi : t.frame.init = true) (hp : t.fg.phase = p) (hs : t.FrecvSound (t.uart t.par.frameUnit) p) : t.FgSound := by
  subst hp
  exact (State.fgSound_frecv hop).mpr ⟨hi, hs⟩

/-- FRECV's step ends at a sound label: the length it copies is FRAME.len, within the capacity (R173). -/
theorem frecvStep_fgSound {s t : State} {buf : Word} (hop : s.fg.op = some (.frecv buf)) (hinv : s.Inv)
    (h : frecvStep buf s = .next t) : t.FgSound := by
  obtain ⟨hi, hsound⟩ := (State.fgSound_frecv hop).mp hinv.fg
  unfold frecvStep at h
  cases hp : s.fg.phase <;> rw [hp] at h hsound <;> dsimp only at h
  case w1 =>
    split at h <;> cases h
    · next hsig => exact State.fgSound_frecv_of hop hi rfl hsig
    · exact hinv.fg
  case w2 =>
    split at h <;> cases h
    · exact State.fgSound_of_none rfl
    · next hn =>
      have hlen : 2 ≤ s.frame.len.toNat := Nat.le_of_not_lt hn
      exact State.fgSound_frecv_of hop hi rfl
        ⟨hlen, hinv.framing.length hi, (Nat.zero_lt_two.trans_le hlen :)⟩
  case c1 =>
    obtain ⟨h2, hcap, hk⟩ := hsound
    split at h
    · cases h; exact hinv.fg
    · split at h
      · cases h; exact hinv.fg
      · split at h <;> cases h
        · next hk' => exact State.fgSound_frecv_of hop hi hp ⟨h2, hcap, hk'⟩
        · next hk' =>
          refine State.fgSound_frecv_of hop hi rfl ⟨h2, hcap, ?_⟩
          change ¬ (s.fg.k + 1#16).toNat < s.fg.n.toNat at hk'
          change s.fg.k + 1#16 = s.fg.n
          bv_omega
  case c2 => cases h; exact State.fgSound_of_none rfl
  all_goals cases h

theorem State.fgSound_sendb {s : State} {i : Unit6} {b : Byte} (hop : s.fg.op = some (.sendb i b)) :
    s.FgSound ↔ (s.uart i).usable = true ∧ (s.fg.phase = .p1 ∨ s.fg.phase = .p2 ∨ s.fg.phase = .p3) := by
  unfold State.FgSound
  rw [hop]

/-- A label of SENDB reached with its unit as v. -/
theorem State.fgSound_sendb_of {t : State} {i : Unit6} {b : Byte} {v : Uart} (hop : t.fg.op = some (.sendb i b))
    (hv : t.uart i = v) (hu : v.usable = true) (hp : t.fg.phase = .p1 ∨ t.fg.phase = .p2 ∨ t.fg.phase = .p3) :
    t.FgSound := by
  subst hv
  exact (State.fgSound_sendb hop).mpr ⟨hu, hp⟩

/-- SENDB's step ends at a sound label (R123). -/
theorem sendbStep_fgSound {s t : State} {i : Unit6} {b : Byte} (hop : s.fg.op = some (.sendb i b)) (hs : s.FgSound)
    (h : sendbStep i b s = .next t) : t.FgSound := by
  obtain ⟨hu, -⟩ := (State.fgSound_sendb hop).mp hs
  unfold sendbStep at h
  cases hp : s.fg.phase <;> rw [hp] at h <;> dsimp only at h
  case p1 => cases h; exact State.fgSound_sendb_of hop (State.uart_setUart_same _ _ _) hu (.inr (.inl rfl))
  case p2 =>
    split at h <;> cases h
    · exact State.fgSound_sendb_of hop rfl hu (.inr (.inr rfl))
    · exact hs
  case p3 => cases h; exact State.fgSound_of_none rfl
  all_goals cases h

theorem State.fgSound_recvb {s : State} {i : Unit6} (hop : s.fg.op = some (.recvb i)) :
    s.FgSound ↔ (s.uart i).usable = true ∧ (s.fg.phase = .p1 ∨ s.fg.phase = .p2) := by
  unfold State.FgSound
  rw [hop]

/-- RECVB's step ends at a sound label (R124). -/
theorem recvbStep_fgSound {s t : State} {i : Unit6} (hop : s.fg.op = some (.recvb i)) (hs : s.FgSound)
    (h : recvbStep i s = .next t) : t.FgSound := by
  obtain ⟨hu, -⟩ := (State.fgSound_recvb hop).mp hs
  unfold recvbStep at h
  cases hp : s.fg.phase <;> rw [hp] at h <;> dsimp only at h
  case p1 =>
    split at h <;> cases h
    · exact (State.fgSound_recvb (s := s.goto .p2) hop).mpr ⟨hu, .inr rfl⟩
    · exact hs
  case p2 => cases h; exact State.fgSound_of_none rfl
  all_goals cases h

/-- The foreground's step ends at a sound label of its operation (R27). -/
theorem foregroundStep_fgSound {s t : State} (hinv : s.Inv) (h : foregroundStep s = .next t) : t.FgSound := by
  have hidle := foregroundStep_allIdle h
  unfold foregroundStep at h
  split at h
  case isFalse => cases h
  split at h
  case h_1 => cases h
  case h_2 hop => exact sendStep_fgSound (.inl hop) hinv.fg h
  case h_3 hop => exact recvStep_fgSound hop hinv (hidle _) h
  case h_4 hop => exact sendbStep_fgSound hop hinv.fg h
  case h_5 hop => exact recvbStep_fgSound hop hinv.fg h
  case h_6 hop => exact sendStep_fgSound (.inr ⟨hop, rfl⟩) hinv.fg h
  case h_7 hop => exact frecvStep_fgSound hop hinv h

/-! ### Every other move -/

/-- A move of another agent than the foreground keeps FG, or presents an operation that starts at a label of its own
pseudocode (R27). -/
theorem agentStep_fg {s t : State} {m : Move} (hfg : m ≠ .foreground) (h : agentStep m s = .next t) :
    t.fg = s.fg ∨ t.FgSound := by
  have hunit : ∀ {i}, m.unit = some i → t.fg = s.fg := by
    intro i hi
    obtain ⟨e, rfl, -⟩ := unitMove_effect (.refl s i) hi h
    rfl
  cases m with
  | hostOperand n v =>
    obtain ⟨q, rfl⟩ := hostOperandStep_next h
    exact .inl rfl
  | hostStore a b =>
    obtain ⟨m, -, rfl⟩ | ⟨-, rfl⟩ := hostStoreStep_next h
    · exact .inl rfl
    · exact .inl (s.stickHost_fg _)
  | hostCommand w =>
    obtain ⟨i, -, he⟩ | rfl := presentCommand_next h
    · cases exec_presented he with
      | started hs => exact .inr hs
      | startedFrom hs => exact .inr hs
      | raised | returned | solved | wrote | finit => exact .inl rfl
    · exact .inl rfl
  | foreground => exact (hfg rfl).elim
  | dispatcher i | txMove i | dmaDone i d | rxByte i b | idleEvent i | txShift i | ctsEvent i | breakEvent i
  | parityEvent i => exact .inl (hunit rfl)

/-- Every move leaves the operation in progress at a sound label (R27). -/
theorem agentStep_fgSound {s t : State} {m : Move} (hinv : s.Inv) (h : agentStep m s = .next t) : t.FgSound := by
  by_cases hfg : m = .foreground
  · subst hfg
    exact foregroundStep_fgSound hinv h
  obtain hsame | hstarted := agentStep_fg hfg h
  · by_cases hm : m.IsFinit
    · obtain ⟨w, rfl, hd⟩ := hm
      have hop := (presentCommand_foregroundFree h (.inr hd)).2.1
      exact State.fgSound_of_none (hsame ▸ hop)
    · exact hinv.fg.sustained hsame (agentStep_par_trace h).1 (agentStep_frame h hm).1
        fun i => (agentStep_unit i h).sustains hinv hfg hm
  · exact hstarted

/-! ### The recorded faults -/

/-- A recorded BusFault is one of an invalid address (R61). -/
def FaultSound (p : Params) (r : Option BusFault) : Prop := ∀ f, r = some f → memValid p f.addr = false

theorem FaultSound.of_some {p : Params} {f : BusFault} (h : memValid p f.addr = false) : FaultSound p (some f) := by
  rintro g ⟨⟩
  exact h

theorem Uart.faultSound_stickCh {p : Params} {u : Uart} {d e : Dir} {f : BusFault}
    (hs : ∀ d, FaultSound p (u.chFault.get d)) (hf : memValid p f.addr = false) :
    FaultSound p ((u.stickCh e f).chFault.get d) := by
  rw [Uart.stickCh_chFault, PerDir.get_set]
  split
  · exact .of_some hf
  · exact hs d

theorem Uart.Serviced.faultSound {p : Params} {u v : Uart} (h : u.Serviced p v)
    (hs : ∀ d, FaultSound p (u.chFault.get d)) (d : Dir) : FaultSound p (v.chFault.get d) := by
  obtain ⟨-, rfl⟩ | ⟨-, rfl⟩ | ⟨-, f, hf, rfl⟩ := h
  · exact hs d
  · exact hs d
  · exact Uart.faultSound_stickCh hs hf

/-- A channel's fault is recorded of an invalid address alone (R61, R238). -/
theorem UnitStep.faultSound {s : State} {i : Unit6} {m : Move} {v : Uart} (h : UnitStep s i m v)
    (hs : ∀ d, FaultSound s.par ((s.uart i).chFault.get d)) (d : Dir) : FaultSound s.par (v.chFault.get d) := by
  cases h with
  | finit _ _ _ _ hv | fgStartRx _ _ _ hv | f4 _ hv | rxLatched _ _ hv => exact hv.faultSound hs d
  | txStuck _ hv => exact Uart.faultSound_stickCh hs hv
  | hret | finish | f5 => simpa using hs d
  | _ => exact hs d

theorem State.stickHost_faultSound {s : State} {f : BusFault} (hf : memValid s.par f.addr = false)
    (hs : FaultSound s.par s.fgFault ∧ FaultSound s.par s.handlerFault) :
    FaultSound s.par (s.stickHost f).fgFault ∧ FaultSound s.par (s.stickHost f).handlerFault := by
  rw [State.stickHost_fgFault, State.stickHost_handlerFault]
  split
  · exact ⟨.of_some hf, hs.2⟩
  · exact ⟨hs.1, .of_some hf⟩

/-- The foreground's and the interrupt context's fault is recorded of an invalid address alone (R61, R238). -/
theorem agentStep_contextFaults {s t : State} {m : Move}
    (hs : FaultSound s.par s.fgFault ∧ FaultSound s.par s.handlerFault) (h : agentStep m s = .next t) :
    FaultSound s.par t.fgFault ∧ FaultSound s.par t.handlerFault := by
  have hunit : ∀ {i}, m.unit = some i → FaultSound s.par t.fgFault ∧ FaultSound s.par t.handlerFault := by
    intro i hi
    obtain ⟨e, rfl, -⟩ := unitMove_effect (.refl s i) hi h
    exact hs
  cases m with
  | hostOperand n v =>
    obtain ⟨q, rfl⟩ := hostOperandStep_next h
    exact hs
  | hostStore a b =>
    obtain ⟨m, -, rfl⟩ | ⟨hv, rfl⟩ := hostStoreStep_next h
    · exact hs
    · exact State.stickHost_faultSound hv hs
  | hostCommand w =>
    obtain ⟨i, -, he⟩ | rfl := presentCommand_next h
    · rw [(exec_presentFrame he).fgFault, (exec_presentFrame he).handlerFault]
      exact hs
    · exact hs
  | foreground =>
    have he := foregroundStep_effect h
    rw [he.handlerFault]
    refine ⟨?_, hs.2⟩
    obtain hk | ⟨f, hf, hv⟩ := he.fgFault
    · rw [hk]
      exact hs.1
    · rw [hf]
      exact .of_some hv
  | dispatcher i | txMove i | dmaDone i d | rxByte i b | idleEvent i | txShift i | ctsEvent i | breakEvent i
  | parityEvent i => exact hunit rfl

/-! ### The whole invariant -/

/-- Every move of every agent keeps the invariant. -/
theorem agentStep_keeps_inv {s t : State} {m : Move} (hinv : s.Inv) (h : agentStep m s = .next t) : t.Inv := by
  have hpar := (agentStep_par_trace h).1
  have hunit := fun i => agentStep_unit i h
  have hcontext := agentStep_contextFaults ⟨hinv.faults.foreground, hinv.faults.handler⟩ h
  exact
    { params := by rw [hpar]; exact hinv.params
      memory := (agentStep_stored h).wf hinv.memory
      config := by rw [hpar]; exact agentStep_configSound hinv.config h
      slots := fun i => by rw [hpar]; exact (hunit i).slotsSound (hinv.slots i)
      dispatch := fun i => (hunit i).dispatchSound h (hinv.slots i) (hinv.dispatch i)
      channels := fun i => (hunit i).channelsSound hinv
      framing := by rw [hpar]; exact agentStep_framingSound hinv h
      fg := agentStep_fgSound hinv h
      faults := by
        refine ⟨?_, ?_, fun i => ?_⟩ <;> rw [hpar]
        · exact hcontext.1
        · exact hcontext.2
        · exact (hunit i).faultSound (hinv.faults.channels i) }

/-- Settles O58: a step is a move of the schedule, or none, and every move keeps each part of the invariant. -/
theorem stepKeepsTheInvariant : Obligations.StepKeepsTheInvariant := by
  intro s t hinv h
  unfold step at h
  split at h
  · cases h
    exact hinv
  · exact agentStep_keeps_inv (hinv.with_sched _) h

end Sys2Proof.Machine
end

section
/-! PROOFS. Reset meets the invariant (R56). -/

namespace Sys2Proof.Machine

/-- A unit as reset leaves it meets every part of the invariant that speaks of one unit (R56). -/
theorem Uart.AfterReset.sound {u : Uart} (h : u.AfterReset) (p : Params) (i : Unit6) :
    u.ConfigSound p i ∧ u.SlotsSound p i ∧ u.DispatchSound ∧ u.ChannelsSound i :=
  ⟨fun hc => by simp [h.cfgv] at hc, fun k => by simp [h.slots k], .of_plain (.inl h.phase) h.masked,
    .of_idle (h.active .rx) (h.done .rx), .of_idle (h.active .tx) (h.done .tx),
    fun ha => by simp [show u.ch.tx.active = false from h.active .tx] at ha⟩

/-- Every state reset can leave meets the invariant (R56). -/
theorem State.AfterReset.inv {s : State} (h : s.AfterReset) (hpar : s.par.wf = true) (hmem : s.mem.wf) : s.Inv := by
  have hunit := fun i => (h.units i).sound s.par i
  have hinit : s.frame.init ≠ true := by simp [h.frame]
  exact
    { params := hpar
      memory := hmem
      config := fun i => (hunit i).1
      slots := fun i => (hunit i).2.1
      dispatch := fun i => (hunit i).2.2.1
      channels := fun i => (hunit i).2.2.2
      framing :=
        { handler := fun hk => by simp [(h.units _).slots .idle] at hk
          bound := fun hi => (hinit hi).elim
          window := fun hi => (hinit hi).elim
          stream := fun hi => (hinit hi).elim
          length := fun hi => (hinit hi).elim
          flen := Uart.CaptureSound.of_plain (.inl (h.units _).phase) }
      fg := State.fgSound_of_none h.op
      faults :=
        ⟨by simp [h.fault.1], by simp [h.fault.2], fun i d => by simp [(h.units i).fault d]⟩ }

theorem Uart.reset_afterReset : Uart.reset.AfterReset where
  cfgv := rfl
  sr := rfl
  rxact := rfl
  slots k := by cases k <;> rfl
  sig d := by cases d <;> rfl
  masked := rfl
  phase := rfl
  active d := by cases d <;> rfl
  done d := by cases d <;> rfl
  fault d := by cases d <;> rfl

/-- The model's reset state has the values R56 gives. -/
theorem State.resetWith_afterReset (p : Params) : (State.resetWith p).AfterReset where
  cmd := rfl
  a := rfl
  r := rfl
  op := rfl
  units i := by
    have hu : (State.resetWith p).uart i = Uart.reset := PerUnit.get_fill _ i
    rw [hu]
    exact Uart.reset_afterReset
  frame := rfl
  trace := rfl
  fault := ⟨rfl, rfl⟩

/-- Settles O59: reset leaves every unit Idle and unbound, and nothing in progress. -/
theorem resetMeetsTheInvariant : Obligations.ResetMeetsTheInvariant :=
  ⟨fun _ h => h.inv, (State.resetWith_afterReset _).inv (by decide) (by decide)⟩

end Sys2Proof.Machine
end

section
/-! PROOFS. Memory (R61, R62, R70): a byte reads as it was last stored, and an access where MEM_VALID is false is a
BusFault of its address. -/

namespace Sys2Proof.Machine

/-- Settles O52: the laws of one store, read through MEM_VALID. -/
theorem memoryHoldsTheLatestStoreOrFaults : Obligations.MemoryHoldsTheLatestStoreOrFaults := by
  intro p m a b v hm
  refine ⟨fun hv => ⟨_, memWrite_valid hv m v, Memory.wf_write hm a.isLt v, ?_, fun hb => ?_⟩,
    fun hv => ⟨memWrite_invalid hv m v, memRead_invalid hv m⟩⟩
  · rw [memRead_valid hv, Memory.read_write_same hm]
  · rw [memRead, memRead, Memory.read_write_ne hm v fun h => hb (BitVec.eq_of_toNat_eq h)]

end Sys2Proof.Machine
end

section
/-! PROOFS. What a move does where it needs a byte at an invalid address (R61, R62, R238): one lemma for each access of
the block. -/

namespace Sys2Proof.Machine

/-! ### The foreground's accesses -/

/-- P1 of SEND and FSEND, its source byte at an invalid address (R121). -/
theorem sendStep_sticks {s : State} {name : OpName} {i : Unit6} {len : Half} {buf : Word} (hp : s.fg.phase = .p1)
    (hv : memValid s.par (byteAddr buf s.fg.k) = false) :
    sendStep name i len buf s = .next (s.stickForeground ⟨byteAddr buf s.fg.k⟩) := by
  simp [sendStep, hp, memRead_invalid hv]

/-- P2 of RECV, its destination at an invalid address (R122). -/
theorem recvStep_sticks {s : State} {i : Unit6} {circ : Bool} {len : Half} {buf : Word} (hp : s.fg.phase = .p2)
    (hv : memValid s.par (byteAddr buf s.fg.k) = false) :
    recvStep i circ len buf s = .next (s.stickForeground ⟨byteAddr buf s.fg.k⟩) := by
  simp [recvStep, hp, memWrite_invalid hv]

/-- C1 of FRECV, its source in the window at an invalid address (R173). -/
theorem frecvStep_source_sticks {s : State} {buf : Word} (hp : s.fg.phase = .c1)
    (hv : memValid s.par (byteAddr s.par.winBase s.fg.k) = false) :
    frecvStep buf s = .next (s.stickForeground ⟨byteAddr s.par.winBase s.fg.k⟩) := by
  simp [frecvStep, hp, memRead_invalid hv]

/-- C1 of FRECV, its destination in the caller's buffer at an invalid address (R173). -/
theorem frecvStep_destination_sticks {s : State} {buf : Word} (hp : s.fg.phase = .c1)
    (hw : memValid s.par (byteAddr s.par.winBase s.fg.k) = true)
    (hv : memValid s.par (byteAddr buf s.fg.k) = false) :
    frecvStep buf s = .next (s.stickForeground ⟨byteAddr buf s.fg.k⟩) := by
  simp [frecvStep, hp, memRead_valid hw, memWrite_invalid hv]

/-! ### The channels' accesses -/

/-- Where the receive service takes a byte: an enabled, active stream that is not stuck, and a byte waiting (R133). -/
theorem Uart.rxTakes_iff {u : Uart} : u.rxTakes = true ↔
    u.dmaRx = true ∧ u.ch.rx.active = true ∧ flag u.sr .rxr = true ∧ u.chFault.rx = none := by
  simp [Uart.rxTakes, Uart.chStuck_eq_false, and_assoc]

/-- TxMove, its source byte at an invalid address (R134). -/
theorem txMoveStep_sticks {s : State} {i : Unit6} {base : Word} (hg : (s.uart i).txMoveEnabled = true)
    (hs : (s.uart i).ch.tx.src = .mem base) (hv : memValid s.par (byteAddr base (s.uart i).ch.tx.off) = false) :
    txMoveStep i s = .next (s.setUart i ((s.uart i).stickCh .tx ⟨byteAddr base (s.uart i).ch.tx.off⟩)) := by
  unfold txMoveStep
  dsimp only
  rw [if_pos (by simpa only [Uart.txMoveEnabled] using hg), hs]
  simp [memRead_invalid hv]

/-- The receive service that stores to an invalid address, as part of a step that has changed its unit (R133). -/
theorem rxServiceStep_sticks {i : Unit6} {s : State} {u : Uart} {base : Word} (ht : u.rxTakes = true)
    (hd : u.ch.rx.dst = .mem base) (hv : memValid s.par (byteAddr base u.ch.rx.off) = false) :
    rxServiceStep i (s.setUart i u) = .next (s.setUart i (u.stickCh .rx ⟨byteAddr base u.ch.rx.off⟩)) := by
  simp only [rxServiceStep, State.uart_setUart_same, State.setUart_par, rxService_sticks ht hd hv,
    State.setUart_setUart]
  rfl

/-- RxByte latches its byte also where the receive service stores to an invalid address (R197; log entry 8). -/
theorem rxByteStep_sticks {i : Unit6} {s : State} {base : Word} (b : Byte) (hdma : (s.uart i).dmaRx = true)
    (hn : (s.uart i).chFault.rx = none) (hu : (s.uart i).usable = true) (ha : (s.uart i).ch.rx.active = true)
    (hf : flag (s.uart i).sr .rxr = false) (hd : (s.uart i).ch.rx.dst = .mem base)
    (hv : memValid s.par (byteAddr base (s.uart i).ch.rx.off) = false) :
    rxByteStep i b s = .next (s.setUart i
      ({ s.uart i with rxact := true, rdr := b, sr := setFlag (s.uart i).sr .rxr : Uart }.stickCh .rx
        ⟨byteAddr base (s.uart i).ch.rx.off⟩)) := by
  unfold rxByteStep
  dsimp only
  rw [if_neg (by simp [hu]), if_neg (by simp [hf])]
  exact rxServiceStep_sticks (Uart.rxTakes_iff.mpr ⟨hdma, ha, flag_setFlag_same _ _, hn⟩) hd hv

/-- A stream started with a byte waiting, byte 0 of its buffer at an invalid address (R131; log entry 8). -/
theorem armTrigger_rx_sticks {i : Unit6} {s : State} {buf : Word} (hdma : (s.uart i).dmaRx = true)
    (hn : (s.uart i).chFault.rx = none) (ho : (s.uart i).ch.rx.outstanding = false)
    (hf : flag (s.uart i).sr .rxr = true) (hv : memValid s.par (byteAddr buf 0#16) = false)
    (dir : XferDir) (src : Endpoint) (len : Half) (circ : Bool) (prio : BitVec 2) :
    (armStep i .rx dir src (.mem buf) len circ prio s).andThen (triggerStep i .rx) =
      .next ((s.setUart i (((s.uart i).started .rx dir src (.mem buf) len circ prio).stickCh .rx
        ⟨byteAddr buf 0#16⟩)).emit (.trigger i .rx)) := by
  have ha : (s.uart i).ch.rx.active = false := by simp_all [Chan.outstanding]
  have ht : ((s.uart i).started .rx dir src (.mem buf) len circ prio).rxTakes = true :=
    Uart.rxTakes_iff.mpr ⟨hdma, rfl, hf, hn⟩
  rw [armStep_free (by simpa using ho), Out.andThen_next, triggerStep_rx_free (by simpa using ha),
    State.uart_setUart_same, State.setUart_setUart]
  exact rxServiceStep_sticks (s := s.emit (.trigger i .rx)) ht rfl hv

/-- The framing handler's restart with a byte latched, byte 0 of the stream's buffer at an invalid address (R181;
log entries 8, 15). -/
theorem frameStep_f4_sticks {i : Unit6} {s : State} {buf : Word} (hdma : (s.uart i).dmaRx = true)
    (hn : (s.uart i).chFault.rx = none) (hf : flag (s.uart i).sr .rxr = true)
    (hd : (s.uart i).ch.rx.dst = .mem buf) (hv : memValid s.par (byteAddr buf 0#16) = false) :
    frameStep i .f4 s = .next (s.setUart i
      ((((s.uart i).setCh .rx { (s.uart i).ch.rx with off := 0#16, active := true }).setPhase (.frame .f5)).stickCh .rx
        ⟨byteAddr buf 0#16⟩)) :=
  rxServiceStep_sticks (Uart.rxTakes_iff.mpr ⟨hdma, rfl, hf, hn⟩) hd hv

/-! ### The host's accesses -/

/-- A host store to an invalid address (R62; log entry 11). -/
theorem hostStoreStep_sticks {s : State} {a : Word} (hm : s.hostMayAct = true) (hv : memValid s.par a = false)
    (b : Byte) : hostStoreStep a b s = .next (s.stickHost ⟨a⟩) := by
  simp [hostStoreStep, hm, memWrite_invalid hv]

/-- A dispatcher in an external handler is not Idle (R240). -/
theorem State.allIdle_of_someHandler {s : State} (h : s.someHandler = true) : s.allIdle = false := by
  obtain ⟨i, k, hp⟩ := s.someHandler_iff.mp h
  refine Bool.eq_false_iff.mpr fun hidle => ?_
  cases hp.symm.trans (s.allIdle_iff.mp hidle i)

/-! ### Every access of the block -/

/-- Settles O53: one lemma for each access, and the next state it names is the one the statement writes out. -/
theorem busFaultsAreRecordedOfTheirAgent : Obligations.BusFaultsAreRecordedOfTheirAgent := by
  intro s i circ len buf a b hv
  refine ⟨?foreground, ?txMove, fun hdma hn => ⟨?rxByte, ?trigger, ?restart⟩, ?foregroundStore,
    ?handlerStore⟩
  case foreground =>
    rintro hm (⟨rfl, ⟨hop | hop, hp⟩ | ⟨hop, hp⟩ | ⟨hop, hp, hw⟩⟩ | ⟨rfl, hop, hp⟩) <;>
      refine (foregroundStep_of_op hm hop).trans ?_
    · exact sendStep_sticks hp hv
    · exact sendStep_sticks hp hv
    · exact recvStep_sticks hp hv
    · exact frecvStep_destination_sticks hp hw hv
    · exact frecvStep_source_sticks hp hv
  case txMove =>
    rintro hg hs rfl
    exact txMoveStep_sticks hg hs hv
  case rxByte =>
    rintro hu ha hf hd rfl
    exact ⟨_, flag_setFlag _ _, rxByteStep_sticks b hdma hn hu ha hf hd hv⟩
  case trigger =>
    rintro hm hop hp ha hdone hf rfl
    refine ⟨_, rfl, ?_⟩
    have ho : (s.uart i).ch.rx.outstanding = false := by simp [Chan.outstanding, ha, hdone]
    refine (foregroundStep_of_op hm hop).trans ?_
    simp only [FgOp.step, recvStep, hp, armTrigger_rx_sticks hdma hn ho hf hv, Out.andThen_next]
    cases circ <;> rfl
  case restart =>
    rintro hp hf hd rfl
    change dispatcherStep i s = _
    simp only [dispatcherStep, hp]
    exact frameStep_f4_sticks hdma hn hf hd hv
  case foregroundStore =>
    intro hm
    have hidle : s.allIdle = true := (s.foregroundMayAct_iff.mp hm).1
    change hostStoreStep a b s = _
    rw [hostStoreStep_sticks (by simp [State.hostMayAct, hm]) hv, State.stickHost, if_pos hidle]
    rfl
  case handlerStore =>
    intro hm
    have hidle : s.allIdle = false := State.allIdle_of_someHandler (s.handlerMayAct_iff.mp hm).1
    change hostStoreStep a b s = _
    rw [hostStoreStep_sticks (by simp [State.hostMayAct, hm]) hv, State.stickHost, if_neg (by simp [hidle])]

end Sys2Proof.Machine
end

section
/-! PROOFS. What a recorded BusFault stops (R61, R238): the context or the channel it is recorded of, and nothing else;
and which moves record one. -/

namespace Sys2Proof.Machine

/-! ### A stuck context of the host -/

/-- The host has a move in the foreground or in the interrupt context, no BusFault being recorded of it (R61, R94). -/
theorem State.hostMayAct_iff {s : State} : s.hostMayAct = true ↔
    (s.allIdle = true ∧ s.fgFault = none) ∨ (s.someHandler = true ∧ s.handlerFault = none) := by
  rw [State.hostMayAct, Bool.or_eq_true, State.foregroundMayAct_iff, State.handlerMayAct_iff]

/-- Where the host has a move, the context it is in has no BusFault recorded (R61, R94). -/
theorem State.hostMayAct_context {s : State} (h : s.hostMayAct = true) :
    (s.allIdle = true ∧ s.fgFault = none) ∨ (s.allIdle = false ∧ s.handlerFault = none) :=
  (State.hostMayAct_iff.mp h).imp id fun ⟨hh, hn⟩ => ⟨State.allIdle_of_someHandler hh, hn⟩

theorem State.hostContext.mayAct {s : State} (h : s.hostContext) : s.hostMayAct = true :=
  State.hostMayAct_iff.mpr (h.imp (fun ⟨hidle, _, hn⟩ => ⟨hidle, hn⟩) And.right)

theorem acceptForeground_mayAct {s t : State} {k : State → Out} (h : acceptForeground s k = .next t) :
    s.hostMayAct = true :=
  State.hostContext.mayAct (.inl (acceptForeground_next h).1)

theorem acceptAny_mayAct {s t : State} {k : State → Out} (h : acceptAny s k = .next t) : s.hostMayAct = true :=
  (acceptAny_next h).1.mayAct

/-- An operation is accepted only where the host has a move (R94). -/
theorem exec_mayAct {i : Instr} {s t : State} (h : exec i s = .next t) : s.hostMayAct = true := by
  cases i <;> simp only [exec] at h
  case seth n sub =>
    unfold execSeth at h
    split at h
    · exact (illegalCommand_next h).1
    · exact acceptForeground_mayAct h
  case rdsr | rddr | wrdr | hret => exact acceptAny_mayAct h
  all_goals exact acceptForeground_mayAct h

/-- The host's moves are made only where it has a move (R94). -/
theorem agentStep_host_mayAct {m : Move} {s t : State} (hm : m.isHost = true) (h : agentStep m s = .next t) :
    s.hostMayAct = true := by
  cases m <;> cases hm
  case hostOperand =>
    simp only [agentStep, hostOperandStep] at h
    split at h
    · assumption
    · cases h
  case hostStore =>
    simp only [agentStep, hostStoreStep] at h
    split at h
    · assumption
    · cases h
  case hostCommand w =>
    simp only [agentStep, presentCommand] at h
    split at h
    · exact exec_mayAct (s := { s with cmd := w }) h
    · exact (illegalCommand_next h).1

/-- A context with a BusFault recorded: the host, being in it, has no move. -/
theorem State.hostMayAct_ne_of_stuck {s : State}
    (h : s.fgFault ≠ none ∧ s.allIdle = true ∨ s.handlerFault ≠ none ∧ s.allIdle = false) :
    s.hostMayAct ≠ true := by
  intro hm
  obtain ⟨hidle, hn⟩ | ⟨hidle, hn⟩ := State.hostMayAct_context hm <;> simp [hidle, hn] at h

theorem foregroundStep_refused {s : State} (h : s.foregroundMayAct ≠ true) :
    foregroundStep s = .refused (.notEnabled .foreground) := by
  rw [foregroundStep, if_neg h, noForegroundStep]

/-! ### A stuck channel -/

section
variable {s t : State} {j : Unit6} {d : Dir}

theorem Uart.chStuck_eq_true {u : Uart} (h : u.chFault.get d ≠ none) : u.chStuck d = true := by
  rw [← Bool.not_eq_false, Uart.chStuck_eq_false]
  exact h

theorem dmaDoneStep_refused (h : (s.uart j).chFault.get d ≠ none) :
    dmaDoneStep j d s = .refused (.notEnabled (.dmaDone j d)) := by
  simp [dmaDoneStep, notEnabled, Uart.chStuck_eq_true h]

theorem txMoveStep_refused (h : (s.uart j).chFault.get .tx ≠ none) :
    txMoveStep j s = .refused (.notEnabled (.txMove j)) := by
  simp [txMoveStep, notEnabled, Uart.chStuck_eq_true h]

/-- The receive service takes no byte for a stuck channel (R238). -/
theorem Uart.not_stuck_of_rxTakes {u : Uart} (h : u.rxTakes = true) : u.chFault.rx = none := by
  obtain ⟨-, -, -, hn⟩ := Uart.rxTakes_iff.mp h
  exact hn

/-- The receive service of a stuck channel does nothing (R238). -/
theorem Uart.Serviced.of_stuck {p : Params} {u v : Uart} (h : u.Serviced p v) (hs : u.chFault.rx ≠ none) : v = u := by
  have hn : u.rxTakes ≠ true := fun ht => hs (Uart.not_stuck_of_rxTakes ht)
  obtain ⟨-, rfl⟩ | ⟨ht, -⟩ | ⟨ht, -⟩ := h
  · rfl
  · exact (hn ht).elim
  · exact (hn ht).elim

/-- The receive service of a stuck channel stores nowhere. -/
theorem Uart.serviceAddress_of_stuck {u : Uart} (h : u.chFault.rx ≠ none) : u.serviceAddress = none := by
  have hs : u.chStuck .rx = true := Uart.chStuck_eq_true h
  simp [Uart.serviceAddress, hs]

/-- A move whose rule gives no address stores nothing. -/
theorem agentStep_mem_of_no_address {m : Move} (h : agentStep m s = .next t) (hn : m.storeAddress s = none) :
    t.mem = s.mem := by
  obtain hk | ⟨x, v, hx, -⟩ := agentStep_stored h
  · exact hk
  · cases hn.symm.trans hx

/-- A byte that arrives for a stuck channel stays in the data register (R238; log entry 8). -/
theorem rxByte_moves_nothing_of_stuck {b : Byte} (hs : (s.uart j).chFault.rx ≠ none)
    (h : agentStep (.rxByte j b) s = .next t) :
    t.mem = s.mem ∧ (t.uart j).ch = (s.uart j).ch := by
  constructor
  · refine agentStep_mem_of_no_address h ?_
    simp only [Move.storeAddress]
    split
    · rfl
    · exact Uart.serviceAddress_of_stuck hs
  · have hu := agentStep_unit j h
    generalize t.uart j = v at hu ⊢
    cases hu with
    | same | rxDropped => rfl
    | rxLatched _ _ hv => rw [hv.of_stuck hs]

/-- A dispatcher moves no byte for a stuck channel; F3 alone writes its counter (R180, R238). -/
theorem dispatcher_moves_nothing_of_stuck (hs : (s.uart j).chFault.rx ≠ none)
    (h : agentStep (.dispatcher j) s = .next t) :
    t.mem = s.mem ∧ ((t.uart j).ch.rx.cnt = (s.uart j).ch.rx.cnt ∨ (s.uart j).dsp.phase = .frame .f3) := by
  constructor
  · refine agentStep_mem_of_no_address h ?_
    simp only [Move.storeAddress]
    split
    · exact Uart.serviceAddress_of_stuck hs
    · rfl
  · have hu := agentStep_unit j h
    generalize t.uart j = v at hu ⊢
    cases hu with
    | f3 hp => exact .inr hp
    | f4 _ hv => exact .inl (by rw [hv.of_stuck hs]; rfl)
    | finish | f5 => exact .inl (by simp)
    | _ => exact .inl rfl

end

/-! ### Who records a BusFault -/

/-- A BusFault of an invalid address is recorded where none was (R61). -/
def FaultRecorded (p : Params) (before after : Option BusFault) : Prop :=
  before = none ∧ ∃ f, after = some f ∧ memValid p f.addr = false

/-- The host's store records a BusFault of the context the host is in, and of no other (R62; log entry 11). -/
theorem State.stickHost_recorded {s : State} {f : BusFault} (hm : s.hostMayAct = true)
    (hv : memValid s.par f.addr = false) :
    ((s.stickHost f).fgFault ≠ s.fgFault → FaultRecorded s.par s.fgFault (s.stickHost f).fgFault) ∧
    ((s.stickHost f).handlerFault ≠ s.handlerFault →
      FaultRecorded s.par s.handlerFault (s.stickHost f).handlerFault) := by
  rw [State.stickHost_fgFault, State.stickHost_handlerFault]
  obtain ⟨hidle, hn⟩ | ⟨hidle, hn⟩ := State.hostMayAct_context hm <;> rw [hidle]
  · exact ⟨fun _ => ⟨hn, f, rfl, hv⟩, fun hne => (hne rfl).elim⟩
  · exact ⟨fun hne => (hne rfl).elim, fun _ => ⟨hn, f, rfl, hv⟩⟩

/-- A move that changes the record of a context of the host records a BusFault, and is one that may (R61, R62). -/
structure ContextRecorded (s : State) (m : Move) (t : State) : Prop where
  foreground : t.fgFault ≠ s.fgFault →
    FaultRecorded s.par s.fgFault t.fgFault ∧ (m = .foreground ∨ ∃ a b, m = .hostStore a b)
  handler : t.handlerFault ≠ s.handlerFault →
    FaultRecorded s.par s.handlerFault t.handlerFault ∧ ∃ a b, m = .hostStore a b

theorem ContextRecorded.of_kept {s t : State} {m : Move} (hf : t.fgFault = s.fgFault)
    (hh : t.handlerFault = s.handlerFault) : ContextRecorded s m t :=
  ⟨fun hne => (hne hf).elim, fun hne => (hne hh).elim⟩

/-- Only a foreground move and a host store record a BusFault of a context of the host (R61, R62). -/
theorem agentStep_context_recorded {s t : State} {m : Move} (h : agentStep m s = .next t) : ContextRecorded s m t := by
  cases m with
  | hostOperand n v =>
    obtain ⟨q, rfl⟩ := hostOperandStep_next h
    exact .of_kept rfl rfl
  | hostStore a b =>
    obtain ⟨m, -, rfl⟩ | ⟨hv, rfl⟩ := hostStoreStep_next h
    · exact .of_kept rfl rfl
    · obtain ⟨hf, hh⟩ := State.stickHost_recorded (f := ⟨a⟩) (agentStep_host_mayAct rfl h) hv
      exact ⟨fun hne => ⟨hf hne, .inr ⟨a, b, rfl⟩⟩, fun hne => ⟨hh hne, a, b, rfl⟩⟩
  | hostCommand w =>
    obtain ⟨i, -, he⟩ | rfl := presentCommand_next h
    · exact .of_kept (exec_presentFrame he).fgFault (exec_presentFrame he).handlerFault
    · exact .of_kept rfl rfl
  | foreground =>
    have he := foregroundStep_effect h
    refine ⟨fun hne => ⟨⟨?_, he.fgFault.resolve_left hne⟩, .inl rfl⟩, fun hne => (hne he.handlerFault).elim⟩
    by_contra hn
    have hm : s.foregroundMayAct ≠ true := fun hm => hn (s.foregroundMayAct_iff.mp hm).2
    cases (foregroundStep_refused hm).symm.trans h
  | dispatcher i | txMove i | dmaDone i d | rxByte i b | idleEvent i | txShift i | ctsEvent i | breakEvent i
  | parityEvent i =>
    obtain ⟨e, rfl, -⟩ := unitMove_effect (.refl s i) rfl h
    exact .of_kept rfl rfl

/-- A channel made stuck that was not: its record is the one that is new. -/
theorem Uart.stickCh_recorded {p : Params} {u : Uart} {d e : Dir} {f : BusFault} (hn : u.chFault.get e = none)
    (hv : memValid p f.addr = false) (hne : (u.stickCh e f).chFault.get d ≠ u.chFault.get d) :
    FaultRecorded p (u.chFault.get d) ((u.stickCh e f).chFault.get d) ∧ d = e := by
  rw [Uart.stickCh_chFault, PerDir.get_set] at hne ⊢
  split at hne
  · next hd =>
    subst hd
    exact ⟨⟨hn, f, if_pos rfl, hv⟩, rfl⟩
  · exact (hne rfl).elim

/-- The receive service records a BusFault of the receive channel alone, where it takes a byte (R62, R133). -/
theorem Uart.Serviced.recorded {p : Params} {u v : Uart} {d : Dir} (h : u.Serviced p v)
    (hne : v.chFault.get d ≠ u.chFault.get d) :
    FaultRecorded p (u.chFault.get d) (v.chFault.get d) ∧ d = .rx ∧ u.rxTakes = true := by
  obtain ⟨-, rfl⟩ | ⟨-, rfl⟩ | ⟨ht, f, hv, rfl⟩ := h
  · exact (hne rfl).elim
  · exact (hne rfl).elim
  · obtain ⟨hr, hd⟩ := Uart.stickCh_recorded (e := .rx) (Uart.not_stuck_of_rxTakes ht) hv hne
    exact ⟨hr, hd, ht⟩

/-- TxMove records a BusFault of the transmit channel, and the moves that hold a receive service one of the receive
channel; FINIT's trigger finds no byte to take, for INIT's commit has cleared `rxr` (R61, R151, R238). -/
theorem UnitStep.recorded {s : State} {j : Unit6} {m : Move} {v : Uart} (h : UnitStep s j m v) {d : Dir}
    (hne : v.chFault.get d ≠ (s.uart j).chFault.get d) :
    FaultRecorded s.par ((s.uart j).chFault.get d) (v.chFault.get d) ∧
    (d = .tx ∧ m = .txMove j ∨ d = .rx ∧ (m = .foreground ∨ m = .dispatcher j ∨ ∃ b, m = .rxByte j b)) := by
  cases h with
  | finit _ _ _ _ hv =>
    obtain ⟨-, -, ht⟩ := hv.recorded hne
    obtain ⟨-, -, hf, -⟩ := Uart.rxTakes_iff.mp ht
    cases (flag_srStart .rxr).symm.trans hf
  | fgStartRx _ _ _ hv =>
    obtain ⟨hr, hd, -⟩ := hv.recorded hne
    exact ⟨hr, .inr ⟨hd, .inl rfl⟩⟩
  | f4 _ hv =>
    obtain ⟨hr, hd, -⟩ := hv.recorded hne
    exact ⟨hr, .inr ⟨hd, .inr (.inl rfl)⟩⟩
  | rxLatched _ _ hv =>
    obtain ⟨hr, hd, -⟩ := hv.recorded hne
    exact ⟨hr, .inr ⟨hd, .inr (.inr ⟨_, rfl⟩)⟩⟩
  | txStuck hg hv =>
    simp only [Uart.txMoveEnabled, Bool.and_eq_true, Bool.not_eq_true', Uart.chStuck_eq_false] at hg
    obtain ⟨hr, hd⟩ := Uart.stickCh_recorded hg.2 hv hne
    exact ⟨hr, .inl ⟨hd, rfl⟩⟩
  | hret | finish | f5 => exact (hne (by simp)).elim
  | _ => exact (hne rfl).elim

/-! ### Every other agent goes on -/

/-- The host's records change no step of a unit's agent: it reads and writes none of them (R54, R238). -/
theorem unitMove_ignores_host_faults {s t : State} {m : Move} {j : Unit6} (hm : m.unit = some j)
    (h : agentStep m s = .next t) (f g : Option BusFault) :
    agentStep m { s with fgFault := f, handlerFault := g } = .next { t with fgFault := f, handlerFault := g } := by
  obtain ⟨e, rfl, h', -⟩ := unitMove_effect (s := s) (s' := { s with fgFault := f, handlerFault := g })
    ⟨rfl, rfl, rfl⟩ hm h
  exact h'

/-- Settles O54: no guard of a stuck agent holds, and a record is made only where a guard held. -/
theorem onlyTheFaultedAgentIsStuck : Obligations.OnlyTheFaultedAgentIsStuck := by
  refine ⟨fun s i n v w b m hm hstuck => ?contexts, fun s t j d hs => ⟨dmaDoneStep_refused hs, ?_, ?_, ?_⟩,
    fun s t m h => ⟨?foreground, ?handler, fun j d hne => ?channel⟩,
    fun s t m j f g hm h => unitMove_ignores_host_faults hm h f g⟩
  case contexts =>
    have hno := State.hostMayAct_ne_of_stuck hstuck
    have hhost : m.isHost = true := by
      simp only [List.mem_cons, List.not_mem_nil, or_false] at hm
      obtain rfl | rfl | rfl := hm <;> rfl
    exact ⟨foregroundStep_refused fun hf => hno (by simp [State.hostMayAct, hf]), fun t h => hno (exec_mayAct h),
      fun t h => hno (agentStep_host_mayAct hhost h)⟩
  · rintro rfl
    exact txMoveStep_refused hs
  · rintro rfl b
    exact rxByte_moves_nothing_of_stuck hs
  · rintro rfl
    exact dispatcher_moves_nothing_of_stuck hs
  case foreground =>
    intro hne
    obtain ⟨⟨hn, hf⟩, hm⟩ := (agentStep_context_recorded h).foreground hne
    exact ⟨hn, hf, hm⟩
  case handler =>
    intro hne
    obtain ⟨⟨hn, hf⟩, hm⟩ := (agentStep_context_recorded h).handler hne
    exact ⟨hn, hf, hm⟩
  case channel =>
    obtain ⟨⟨hn, hf⟩, hm⟩ := (agentStep_unit j h).recorded hne
    exact ⟨hn, hf, hm⟩

end Sys2Proof.Machine
end

section
/-! PROOFS. The command word (R77, R84, R89, R92): a word's operation is read off its fields, and OP tells the rows of the
opcode table apart. -/

namespace Sys2Proof

/-! ### The fields of a word -/

/-- A word is given by its four fields (R77). -/
theorem cmd32_eq_iff {w : Word} {op : BitVec 8} {unit sub : BitVec 4} {imm : BitVec 16} :
    cmd32 op unit sub imm = w ↔ op = fieldOp w ∧ unit = fieldInst w ∧ sub = fieldSub w ∧ imm = fieldImm w := by
  rw [← cmd32_inj, cmd32_fields]

/-- IMM of a byte operation is its byte operand under eight zeros (R80). -/
theorem byteImm_eq_fieldImm {w : Word} (h : (fieldImm w).extractLsb' 8 8 = 0#8) : 0#8 ++ fieldValue w = fieldImm w := by
  have hv : fieldValue w = (fieldImm w).extractLsb' 0 8 := by
    rw [fieldValue, fieldImm, BitVec.extractLsb'_extractLsb'_of_le (by decide)]
  rw [hv, ← h]
  exact BitVec.extractLsb'_append_extractLsb'

/-- SUB of RECV is its circular bit under three zeros (R79). -/
theorem circularSub_eq {sub : BitVec 4} (h : sub.extractLsb' 1 3 = 0#3) :
    (if sub.getLsbD 0 then 1#4 else 0#4) = sub := by
  revert sub; decide

/-! ### Decoding and encoding -/

theorem whenZero_eq_legal {zero : Bool} {i j : Instr} : whenZero zero i = .legal j ↔ zero = true ∧ i = j := by
  cases zero <;> simp [whenZero]

/-- The decoder finds each operand of a well-formed operation in the field `encode` put it in. -/
theorem decode_encode {i : Instr} (h : i.wf = true) : decode (encode i) = .legal i := by
  cases i with
  | seth u sub =>
    have hs : sub.toNat ≤ 6 := by simpa [Instr.wf] using h
    simp [encode, decode, hs]
  | recv u circ len => cases circ <;> simp [encode, decode, whenZero]
  | sendb u v | wrdr u v =>
    have hv : (0#8 ++ v : BitVec 16).extractLsb' 8 8 = 0#8 := BitVec.extractLsb'_append_eq_left
    simp [encode, decode, whenZero, hv]
  | _ => simp [encode, decode, whenZero]

/-- A legal word is well formed and is the word of its operation: each branch of the decoder fixes OP and the bits that
must be zero, and makes every other field an operand. -/
theorem encode_of_decode {w : Word} {i : Instr} (h : decode w = .legal i) : i.wf = true ∧ encode i = w := by
  simp only [decode, ite_eq_iff, whenZero_eq_legal, Bool.and_eq_true, decide_eq_true_eq, reduceCtorEq, and_false,
    or_false, Decoded.legal.injEq] at h
  obtain ⟨hop, ⟨hsub, himm⟩, rfl⟩ | ⟨-, h⟩ := h
  · exact ⟨rfl, cmd32_eq_iff.mpr ⟨hop.symm, rfl, hsub.symm, himm.symm⟩⟩
  obtain ⟨hop, hsub, rfl⟩ | ⟨-, h⟩ := h
  · exact ⟨rfl, cmd32_eq_iff.mpr ⟨hop.symm, rfl, hsub.symm, rfl⟩⟩
  obtain ⟨hop, hsub, rfl⟩ | ⟨-, h⟩ := h
  · exact ⟨rfl, cmd32_eq_iff.mpr ⟨hop.symm, rfl, circularSub_eq hsub, rfl⟩⟩
  obtain ⟨hop, ⟨hsub, himm⟩, rfl⟩ | ⟨-, h⟩ := h
  · exact ⟨rfl, cmd32_eq_iff.mpr ⟨hop.symm, rfl, hsub.symm, byteImm_eq_fieldImm himm⟩⟩
  obtain ⟨hop, ⟨hsub, himm⟩, rfl⟩ | ⟨-, h⟩ := h
  · exact ⟨rfl, cmd32_eq_iff.mpr ⟨hop.symm, rfl, hsub.symm, himm.symm⟩⟩
  obtain ⟨hop, himm, hkind, rfl⟩ | ⟨-, h⟩ := h
  · exact ⟨decide_eq_true hkind, cmd32_eq_iff.mpr ⟨hop.symm, rfl, rfl, himm.symm⟩⟩
  obtain ⟨hop, ⟨⟨hunit, hsub⟩, himm⟩, rfl⟩ | ⟨-, h⟩ := h
  · exact ⟨rfl, cmd32_eq_iff.mpr ⟨hop.symm, hunit.symm, hsub.symm, himm.symm⟩⟩
  obtain ⟨hop, ⟨hunit, hsub⟩, rfl⟩ | ⟨-, h⟩ := h
  · exact ⟨rfl, cmd32_eq_iff.mpr ⟨hop.symm, hunit.symm, hsub.symm, rfl⟩⟩
  obtain ⟨hop, ⟨⟨hunit, hsub⟩, himm⟩, rfl⟩ | ⟨-, h⟩ := h
  · exact ⟨rfl, cmd32_eq_iff.mpr ⟨hop.symm, hunit.symm, hsub.symm, himm.symm⟩⟩
  obtain ⟨hop, ⟨⟨hunit, hsub⟩, himm⟩, rfl⟩ | ⟨-, h⟩ := h
  · exact ⟨rfl, cmd32_eq_iff.mpr ⟨hop.symm, hunit.symm, hsub.symm, himm.symm⟩⟩
  obtain ⟨hop, ⟨⟨hunit, hsub⟩, himm⟩, rfl⟩ | ⟨-, h⟩ := h
  · exact ⟨rfl, cmd32_eq_iff.mpr ⟨hop.symm, hunit.symm, hsub.symm, himm.symm⟩⟩
  obtain ⟨hop, ⟨hsub, himm⟩, rfl⟩ | ⟨-, h⟩ := h
  · exact ⟨rfl, cmd32_eq_iff.mpr ⟨hop.symm, rfl, hsub.symm, himm.symm⟩⟩
  obtain ⟨hop, ⟨hsub, himm⟩, rfl⟩ | ⟨-, h⟩ := h
  · exact ⟨rfl, cmd32_eq_iff.mpr ⟨hop.symm, rfl, hsub.symm, himm.symm⟩⟩
  obtain ⟨hop, ⟨hsub, himm⟩, rfl⟩ | ⟨-, hop, ⟨hsub, himm⟩, rfl⟩ := h
  · exact ⟨rfl, cmd32_eq_iff.mpr ⟨hop.symm, rfl, hsub.symm, byteImm_eq_fieldImm himm⟩⟩
  · exact ⟨rfl, cmd32_eq_iff.mpr ⟨hop.symm, rfl, hsub.symm, himm.symm⟩⟩

/-- The legal words are the words of the well-formed operations (R92). -/
theorem decode_eq_legal_iff {w : Word} {i : Instr} : decode w = .legal i ↔ i.wf = true ∧ encode i = w :=
  ⟨encode_of_decode, fun ⟨hwf, hw⟩ => hw ▸ decode_encode hwf⟩

/-- Settles O1 by `decode_encode`. -/
theorem decodeOfEncodeIsTheOperation : Obligations.DecodeOfEncodeIsTheOperation := fun _ => decode_encode

/-- Settles O2 by `encode_of_decode`. -/
theorem encodeOfDecodeIsTheWord : Obligations.EncodeOfDecodeIsTheWord := fun _ _ => encode_of_decode

/-! ### The rows of the opcode table -/

theorem row_selects_encode (i : Instr) : i.row.selects (encode i) = true := by
  cases i with
  | init u => exact Laws.RowMatch.init u
  | send u len => exact Laws.RowMatch.send u len
  | recv u circ len => exact Laws.RowMatch.recv u circ len
  | sendb u v => exact Laws.RowMatch.sendb u v
  | recvb u => exact Laws.RowMatch.recvb u
  | seth u sub => exact Laws.RowMatch.seth u sub
  | finit => exact Laws.RowMatch.finit
  | fsend len => exact Laws.RowMatch.fsend len
  | frecv => exact Laws.RowMatch.frecv
  | solveb => exact Laws.RowMatch.solveb
  | solvet => exact Laws.RowMatch.solvet
  | rdsr u => exact Laws.RowMatch.rdsr u
  | rddr u => exact Laws.RowMatch.rddr u
  | wrdr u v => exact Laws.RowMatch.wrdr u v
  | hret u => exact Laws.RowMatch.hret u

theorem mem_opcodeTable_iff {row : Row} : row ∈ opcodeTable ↔ ∃ i : Instr, i.row = row := by
  constructor
  · intro h
    obtain ⟨i, -, hi⟩ := List.mem_map.mp (show row ∈ [Instr.init 0#4, .send 0#4 0#16, .recv 0#4 false 0#16,
      .sendb 0#4 0#8, .recvb 0#4, .seth 0#4 0#4, .finit, .fsend 0#16, .frecv, .solveb, .solvet, .rdsr 0#4, .rddr 0#4,
      .wrdr 0#4 0#8, .hret 0#4].map Instr.row from h)
    exact ⟨i, hi⟩
  · rintro ⟨i, rfl⟩
    cases i <;> simp [opcodeTable, Instr.row]

section
variable {op : BitVec 8} {w : Word}

/-- A row selects a word exactly when it selects each field of the word (R84). -/
theorem selects_word (pop mop : BitVec 8) (punit psub munit msub : BitVec 4) (pimm mimm : BitVec 16) :
    Row.selects ⟨cmd32 pop punit psub pimm, cmd32 mop munit msub mimm⟩ w = true ↔
      fieldOp w &&& mop = pop ∧ fieldInst w &&& munit = punit ∧ fieldSub w &&& msub = psub ∧
      fieldImm w &&& mimm = pimm := by
  rw [← Row.selects_fields, cmd32_fields]

/-! A mask over a whole field keeps the field. -/

theorem and_mask8 (x : BitVec 8) : x &&& 0xFF#8 = x := BitVec.and_allOnes
theorem and_mask4 (x : BitVec 4) : x &&& 0xF#4 = x := BitVec.and_allOnes
theorem and_mask16 (x : BitVec 16) : x &&& 0xFFFF#16 = x := BitVec.and_allOnes

/-- A row with no operand selects its one word. -/
theorem word_of_fixedRow (h : Row.selects ⟨cmd32 op 0#4 0#4 0#16, 0xFFFFFFFF#32⟩ w = true) :
    cmd32 op 0#4 0#4 0#16 = w := by
  obtain ⟨hop, hunit, hsub, himm⟩ := (selects_word op 0xFF#8 0#4 0#4 0xF#4 0xF#4 0#16 0xFFFF#16).mp h
  rw [and_mask8] at hop
  rw [and_mask4] at hunit hsub
  rw [and_mask16] at himm
  exact cmd32_eq_iff.mpr ⟨hop.symm, hunit.symm, hsub.symm, himm.symm⟩

/-- A row with the unit as its one operand selects that operand's words. -/
theorem word_of_unitRow (h : Row.selects ⟨cmd32 op 0#4 0#4 0#16, 0xFF0FFFFF#32⟩ w = true) :
    cmd32 op (fieldInst w) 0#4 0#16 = w := by
  obtain ⟨hop, -, hsub, himm⟩ := (selects_word op 0xFF#8 0#4 0#4 0#4 0xF#4 0#16 0xFFFF#16).mp h
  rw [and_mask8] at hop
  rw [and_mask4] at hsub
  rw [and_mask16] at himm
  exact cmd32_eq_iff.mpr ⟨hop.symm, rfl, hsub.symm, himm.symm⟩

/-- A row with the unit and a byte as its operands selects those operands' words. -/
theorem word_of_byteRow (h : Row.selects ⟨cmd32 op 0#4 0#4 0#16, 0xFF0FFF00#32⟩ w = true) :
    cmd32 op (fieldInst w) 0#4 (0#8 ++ fieldValue w) = w := by
  obtain ⟨hop, -, hsub, himm⟩ := (selects_word op 0xFF#8 0#4 0#4 0#4 0xF#4 0#16 0xFF00#16).mp h
  rw [and_mask8] at hop
  rw [and_mask4] at hsub
  have hhigh : (fieldImm w).extractLsb' 8 8 &&& 0xFF#8 = 0#8 := by
    simpa [BitVec.extractLsb'_and] using congrArg (BitVec.extractLsb' 8 8) himm
  rw [and_mask8] at hhigh
  exact cmd32_eq_iff.mpr ⟨hop.symm, rfl, hsub.symm, byteImm_eq_fieldImm hhigh⟩

end

/-- A word a row selects is the word of an operation of that row: the bits the row's mask leaves out are operands. -/
theorem exists_encode_of_selects {i : Instr} {w : Word} (h : i.row.selects w = true) :
    ∃ j : Instr, j.row = i.row ∧ encode j = w := by
  cases i with
  | init u => exact ⟨.init (fieldInst w), rfl, word_of_unitRow h⟩
  | send u len =>
    obtain ⟨hop, -, hsub, -⟩ := (selects_word 0x02#8 0xFF#8 0#4 0#4 0#4 0xF#4 0#16 0#16).mp h
    rw [and_mask8] at hop
    rw [and_mask4] at hsub
    exact ⟨.send (fieldInst w) (fieldImm w), rfl, cmd32_eq_iff.mpr ⟨hop.symm, rfl, hsub.symm, rfl⟩⟩
  | recv u circ len =>
    obtain ⟨hop, -, hsub, -⟩ := (selects_word 0x03#8 0xFF#8 0#4 0#4 0#4 0xE#4 0#16 0#16).mp h
    rw [and_mask8] at hop
    have hhigh : ∀ sub : BitVec 4, sub &&& 0xE#4 = 0#4 → sub.extractLsb' 1 3 = 0#3 := by decide
    exact ⟨.recv (fieldInst w) ((fieldSub w).getLsbD 0) (fieldImm w), rfl,
      cmd32_eq_iff.mpr ⟨hop.symm, rfl, circularSub_eq (hhigh _ hsub), rfl⟩⟩
  | sendb u v => exact ⟨.sendb (fieldInst w) (fieldValue w), rfl, word_of_byteRow h⟩
  | recvb u => exact ⟨.recvb (fieldInst w), rfl, word_of_unitRow h⟩
  | seth u sub =>
    obtain ⟨hop, -, -, himm⟩ := (selects_word 0x06#8 0xFF#8 0#4 0#4 0#4 0#4 0#16 0xFFFF#16).mp h
    rw [and_mask8] at hop
    rw [and_mask16] at himm
    exact ⟨.seth (fieldInst w) (fieldSub w), rfl, cmd32_eq_iff.mpr ⟨hop.symm, rfl, rfl, himm.symm⟩⟩
  | finit => exact ⟨.finit, rfl, word_of_fixedRow h⟩
  | fsend len =>
    obtain ⟨hop, hunit, hsub, -⟩ := (selects_word 0x09#8 0xFF#8 0#4 0#4 0xF#4 0xF#4 0#16 0#16).mp h
    rw [and_mask8] at hop
    rw [and_mask4] at hunit hsub
    exact ⟨.fsend (fieldImm w), rfl, cmd32_eq_iff.mpr ⟨hop.symm, hunit.symm, hsub.symm, rfl⟩⟩
  | frecv => exact ⟨.frecv, rfl, word_of_fixedRow h⟩
  | solveb => exact ⟨.solveb, rfl, word_of_fixedRow h⟩
  | solvet => exact ⟨.solvet, rfl, word_of_fixedRow h⟩
  | rdsr u => exact ⟨.rdsr (fieldInst w), rfl, word_of_unitRow h⟩
  | rddr u => exact ⟨.rddr (fieldInst w), rfl, word_of_unitRow h⟩
  | wrdr u v => exact ⟨.wrdr (fieldInst w) (fieldValue w), rfl, word_of_byteRow h⟩
  | hret u => exact ⟨.hret (fieldInst w), rfl, word_of_unitRow h⟩

/-- Every row fixes OP, so a word has the OP of the row that selects it (R84). -/
theorem fieldOp_pattern_of_selects {row : Row} {w : Word} (hrow : row ∈ opcodeTable) (h : row.selects w = true) :
    fieldOp row.pattern = fieldOp w := by
  have hmask : ∀ row ∈ opcodeTable, fieldOp row.mask = 0xFF#8 := by decide
  have hw : w &&& row.mask = row.pattern := of_decide_eq_true h
  rw [← hw, fieldOp, BitVec.extractLsb'_and]
  change fieldOp w &&& fieldOp row.mask = fieldOp w
  rw [hmask row hrow, and_mask8]

/-- The rows of the opcode table are disjoint: no two have the same OP (R84). -/
theorem selected_rows_le_one (w : Word) : (opcodeTable.filter fun row => row.selects w).length ≤ 1 := by
  have hnodup : ((opcodeTable.filter fun row => row.selects w).map fun row => fieldOp row.pattern).Nodup :=
    (show (opcodeTable.map fun row => fieldOp row.pattern).Nodup by decide).sublist (List.filter_sublist.map _)
  have hop : ∀ row ∈ opcodeTable.filter fun row => row.selects w, fieldOp row.pattern = fieldOp w := fun row h =>
    fieldOp_pattern_of_selects (List.mem_filter.mp h).1 (List.mem_filter.mp h).2
  rw [List.map_congr_left hop, List.map_const', List.nodup_replicate] at hnodup
  exact hnodup

theorem selected_rows_eq_one_iff {w : Word} :
    (opcodeTable.filter fun row => row.selects w).length = 1 ↔ ∃ i, encode i = w := by
  constructor
  · intro h
    obtain ⟨row, hrow⟩ := List.exists_mem_of_length_pos (h ▸ Nat.one_pos)
    obtain ⟨hmem, hs⟩ := List.mem_filter.mp hrow
    obtain ⟨i, rfl⟩ := mem_opcodeTable_iff.mp hmem
    obtain ⟨j, -, hj⟩ := exists_encode_of_selects hs
    exact ⟨j, hj⟩
  · rintro ⟨i, rfl⟩
    have hi : i.row ∈ opcodeTable.filter fun row => row.selects (encode i) :=
      List.mem_filter.mpr ⟨mem_opcodeTable_iff.mpr ⟨i, rfl⟩, row_selects_encode i⟩
    exact le_antisymm (selected_rows_le_one _) (List.length_pos_of_mem hi)

/-- An operation is well formed exactly when its word, if SETH's, has a SUB that is an event kind (R89). -/
theorem wf_iff_fieldSub (i : Instr) :
    i.wf = true ↔ (fieldOp (encode i) = 0x06#8 → (fieldSub (encode i)).toNat ≤ 6) := by
  cases i <;> simp [Instr.wf, encode]

/-- Settles O3: OP tells the rows apart, the words a row selects are those of its operations, and of these the decoder
accepts the well-formed ones. -/
theorem legalWordsSelectExactlyOneRow : Obligations.LegalWordsSelectExactlyOneRow := by
  refine fun w => ⟨selected_rows_le_one w, ?_, fun i h => ?_⟩
  · simp only [decode_eq_legal_iff, selected_rows_eq_one_iff]
    constructor
    · rintro ⟨i, hwf, rfl⟩
      exact ⟨⟨i, rfl⟩, (wf_iff_fieldSub i).mp hwf⟩
    · rintro ⟨⟨i, rfl⟩, hsub⟩
      exact ⟨i, (wf_iff_fieldSub i).mpr hsub, rfl⟩
  · obtain ⟨-, rfl⟩ := encode_of_decode h
    exact row_selects_encode i

/-- Settles O4: each word and each code is evaluated. -/
theorem writtenOutWordsDecode : Obligations.WrittenOutWordsDecode := by
  unfold Obligations.WrittenOutWordsDecode
  decide

end Sys2Proof
end

section
/-! PROOFS. Presenting a command word (R75, R90, R94): what an illegal word does, and what each operation does once it is
accepted, with where it is accepted. -/

namespace Sys2Proof.Machine

/-! ### The write of CMD -/

theorem presentCommand_legal {w : Word} {i : Instr} (h : decode w = .legal i) (s : State) :
    presentCommand w s = exec i { s with cmd := w } := by
  rw [presentCommand, h]

theorem presentCommand_illegal {w : Word} (h : ∀ i, decode w ≠ .legal i) (s : State) :
    presentCommand w s = illegalCommand { s with cmd := w } := by
  rw [presentCommand]
  split
  · next i hi => exact (h i hi).elim
  · rfl

theorem illegalCommand_mayAct {s : State} (h : s.hostMayAct = true) : illegalCommand s = .next (s.raise .illegal) :=
  if_pos h

theorem step_of_sched {s : State} {m : Move} {rest : List Move} (h : s.sched = m :: rest) :
    step s = agentStep m { s with sched := rest } := by
  rw [step, h]

theorem State.withFetchWord_sched (s : State) (w : Word) :
    (s.withFetchWord 32 w.toNat).sched = .hostCommand w :: s.sched := by
  rw [State.withFetchWord, Nat.mod_eq_of_lt w.isLt, BitVec.ofNat_toNat, BitVec.setWidth_eq]

/-- Settles O6: the write of CMD is taken off the schedule and presents the word. -/
theorem stepRunsTheDecodedOperation : Obligations.StepRunsTheDecodedOperation := by
  intro s w rest
  refine ⟨fun i hi => ⟨fun hs => ?_, ?_⟩, fun why hw hm _ => ?_⟩
  · rw [step_of_sched hs]
    exact presentCommand_legal hi _
  · rw [step_of_sched (s.withFetchWord_sched w)]
    exact presentCommand_legal hi s
  · refine (presentCommand_illegal (by simp [hw]) s).trans (illegalCommand_mayAct ?_)
    rw [State.hostMayAct, Bool.or_eq_true]
    exact .inl hm

/-- The words R90 calls illegal decode to no operation: a legal word selects a row, and SETH's is well formed. -/
theorem decode_ne_legal {w : Word}
    (h : (∀ row ∈ opcodeTable, row.selects w = false) ∨ (fieldOp w = 0x06#8 ∧ 7 ≤ (fieldSub w).toNat)) (i : Instr) :
    decode w ≠ .legal i := by
  intro hd
  obtain ⟨hwf, rfl⟩ := encode_of_decode hd
  obtain hrow | ⟨hop, hsub⟩ := h
  · have hno := hrow i.row (mem_opcodeTable_iff.mpr ⟨i, rfl⟩)
    rw [row_selects_encode] at hno
    cases hno
  · have hle := (wf_iff_fieldSub i).mp hwf hop
    omega

/-- Settles O5: the word decodes to no operation, and the host has a move. -/
theorem illegalWordOnlySetsTheResult : Obligations.IllegalWordOnlySetsTheResult := by
  intro s w hc hw
  refine (presentCommand_illegal (decode_ne_legal hw) s).trans ?_
  have hm : State.hostMayAct { s with cmd := w } = true := hc.mayAct
  exact illegalCommand_mayAct hm

/-! ### The unit an operation names -/

theorem unitOf_unitNumber (j : Unit6) : unitOf (unitNumber j) = some j := by
  cases j <;> rfl

theorem unitOf_namesNoUnit {n : BitVec 4} (h : namesNoUnit n) : unitOf n = none := by
  have hn : ∀ n : BitVec 4, n = 0#4 ∨ 7 ≤ n.toNat → unitOf n = none := by decide
  exact hn n h

theorem kindOf_of_wf {n sub : BitVec 4} (h : (Instr.seth n sub).wf = true) : ∃ k, kindOf sub = some k := by
  have hs : ∀ sub : BitVec 4, sub.toNat ≤ 6 → (kindOf sub).isSome := by decide
  exact Option.isSome_iff_exists.mp (hs sub (of_decide_eq_true h))

/-- What an operation of a unit runs once accepted: an error where its INST field names no unit (R78), else the
operation on the unit named. -/
def onUnit (n : BitVec 4) (op : OpName) (body : Unit6 → State → Out) (s : State) : Out :=
  match unitOf n with
  | none => .next (s.raise op)
  | some j => body j s

theorem onUnit_none {n : BitVec 4} (h : unitOf n = none) (op : OpName) (body : Unit6 → State → Out) (s : State) :
    onUnit n op body s = .next (s.raise op) := by
  rw [onUnit, h]

theorem onUnit_some {n : BitVec 4} {j : Unit6} (h : unitOf n = some j) (op : OpName) (body : Unit6 → State → Out)
    (s : State) : onUnit n op body s = body j s := by
  rw [onUnit, h]

/-! ### What an operation runs once accepted -/

/-- `k` is what an operation runs where R94 accepts it: it never finds the foreground busy, raises where the INST field
names no unit (R78), and, of an operation of both contexts, completes in one step that leaves FG alone (R94). -/
structure Meaning (i : Instr) (k : State → Out) : Prop where
  accepted  : ∀ s, exec i s = if foregroundOnly i then acceptForeground s k else acceptAny s k
  notBusy   : ∀ s, k s ≠ .refused .busy
  noUnit    : ∀ n, unitField i = some n → unitOf n = none → ∀ s, k s = .next (s.raise (opName i))
  completes : foregroundOnly i = false → ∀ s, ∃ t, k s = .next t ∧ t.fg = s.fg

theorem Out.ne_busy_of_next {o : Out} (h : ∃ t, o = .next t) : o ≠ .refused .busy := by
  obtain ⟨t, rfl⟩ := h
  nofun

theorem Out.NextOrOverlap.ne_busy {p : FgPhase} {o : Out} (h : o.NextOrOverlap p) : o ≠ .refused .busy := by
  obtain h | ⟨i, d, rfl, -⟩ := h
  · exact Out.ne_busy_of_next h
  · nofun

/-- A foreground-only operation of a unit. -/
theorem Meaning.foreground {i : Instr} {n : BitVec 4} {body : Unit6 → State → Out} (hn : unitField i = some n)
    (hi : foregroundOnly i = true) (hacc : ∀ s, exec i s = acceptForeground s (onUnit n (opName i) body))
    (hbody : ∀ j s, body j s ≠ .refused .busy) : Meaning i (onUnit n (opName i) body) where
  accepted s := by rw [if_pos hi, hacc]
  notBusy s := by
    cases hu : unitOf n with
    | none => rw [onUnit_none hu]; nofun
    | some j => rw [onUnit_some hu]; exact hbody j s
  noUnit m hm hu s := by
    obtain rfl := Option.some_inj.mp (hn.symm.trans hm)
    exact onUnit_none hu _ _ s
  completes h := by rw [hi] at h; cases h

/-- An operation of a unit that both contexts may issue. -/
theorem Meaning.both {i : Instr} {n : BitVec 4} {body : Unit6 → State → Out} (hn : unitField i = some n)
    (hi : foregroundOnly i = false) (hacc : ∀ s, exec i s = acceptAny s (onUnit n (opName i) body))
    (hbody : ∀ j s, ∃ t, body j s = .next t ∧ t.fg = s.fg) : Meaning i (onUnit n (opName i) body) := by
  have hdone : ∀ s, ∃ t, onUnit n (opName i) body s = .next t ∧ t.fg = s.fg := fun s => by
    cases hu : unitOf n with
    | none => exact ⟨_, onUnit_none hu _ _ s, rfl⟩
    | some j => rw [onUnit_some hu]; exact hbody j s
  exact {
    accepted := fun s => by rw [hi, hacc]; rfl
    notBusy := fun s => Out.ne_busy_of_next ((hdone s).imp fun _ => And.left)
    noUnit := fun m hm hu s => by
      obtain rfl := Option.some_inj.mp (hn.symm.trans hm)
      exact onUnit_none hu _ _ s
    completes := fun _ => hdone }

/-- A foreground-only operation without an INST field. -/
theorem Meaning.unitless {i : Instr} {k : State → Out} (hn : unitField i = none) (hi : foregroundOnly i = true)
    (hacc : ∀ s, exec i s = acceptForeground s k) (hk : ∀ s, k s ≠ .refused .busy) : Meaning i k where
  accepted s := by rw [if_pos hi, hacc]
  notBusy := hk
  noUnit n h := by rw [hn] at h; cases h
  completes h := by rw [hi] at h; cases h

theorem sendStart_has_next (name : OpName) (op : FgOp) (i : Unit6) (len : Half) (s : State) :
    ∃ t, sendStart name op i len s = .next t := by
  unfold sendStart
  dsimp only
  split_ifs <;> exact ⟨_, rfl⟩

theorem recvStart_has_next (i : Unit6) (circ : Bool) (len : Half) (s : State) :
    ∃ t, recvStart i circ len s = .next t := by
  unfold recvStart
  dsimp only
  split_ifs <;> exact ⟨_, rfl⟩

theorem exec_meaning {i : Instr} (hwf : i.wf = true) : ∃ k, Meaning i k := by
  cases i with
  | init n =>
    refine ⟨_, .foreground (n := n) rfl rfl (fun _ => rfl) fun j s => ?_⟩
    split <;> nofun
  | send n len =>
    exact ⟨_, .foreground (n := n) rfl rfl (fun _ => rfl) fun j s =>
      Out.ne_busy_of_next (sendStart_has_next _ _ j len s)⟩
  | recv n circ len =>
    exact ⟨_, .foreground (n := n) rfl rfl (fun _ => rfl) fun j s =>
      Out.ne_busy_of_next (recvStart_has_next j circ len s)⟩
  | sendb n v =>
    refine ⟨_, .foreground (n := n) rfl rfl (fun _ => rfl) fun j s => ?_⟩
    split <;> nofun
  | recvb n =>
    refine ⟨_, .foreground (n := n) rfl rfl (fun _ => rfl) fun j s => ?_⟩
    split <;> nofun
  | seth n sub =>
    obtain ⟨k, hk⟩ := kindOf_of_wf hwf
    refine ⟨_, .foreground (n := n) (body := fun j s =>
      .next ((s.setUart j ((s.uart j).setSlot k (slotOfToken s.a.q0))).ret .seth 0#32)) rfl rfl (fun s => ?_)
      fun j s => Out.ne_busy_of_next ⟨_, rfl⟩⟩
    simp only [exec, execSeth, hk]
    rfl
  | finit =>
    refine ⟨_, .unitless rfl rfl (fun _ => rfl) fun s => ?_⟩
    dsimp only
    split
    · nofun
    · nofun
    · exact Out.NextOrOverlap.ne_busy
        (Out.nextOrOverlap_start (armTrigger_rx_next_or_overlap _ _ _ _ _ _ _ _) fun t => ⟨_, rfl⟩)
  | fsend len =>
    exact ⟨_, .unitless rfl rfl (fun _ => rfl) fun s => Out.ne_busy_of_next (sendStart_has_next _ _ _ len s)⟩
  | frecv =>
    refine ⟨_, .unitless rfl rfl (fun _ => rfl) fun s => ?_⟩
    split <;> nofun
  | solveb => exact ⟨fun s => _, .unitless rfl rfl (fun _ => rfl) fun s => nofun⟩
  | solvet => exact ⟨fun s => _, .unitless rfl rfl (fun _ => rfl) fun s => nofun⟩
  | rdsr n => exact ⟨_, .both (n := n) rfl rfl (fun _ => rfl) fun j s => ⟨_, rfl, rfl⟩⟩
  | rddr n => exact ⟨_, .both (n := n) rfl rfl (fun _ => rfl) fun j s => ⟨_, rfl, rfl⟩⟩
  | wrdr n v => exact ⟨_, .both (n := n) rfl rfl (fun _ => rfl) fun j s => ⟨_, rfl, rfl⟩⟩
  | hret n =>
    refine ⟨_, .both (n := n) rfl rfl (fun _ => rfl) fun j s => ?_⟩
    split <;> exact ⟨_, rfl, rfl⟩

/-! ### Where an operation is accepted -/

section
variable {i : Instr} {s : State} {k : State → Out}

theorem Meaning.exec_accepts (hk : Meaning i k) (h : s.accepts i) : exec i s = k s := by
  rw [hk.accepted]
  split
  · next hi =>
    obtain hf | ⟨hn, -⟩ := h
    · exact acceptForeground_free hf k
    · rw [hi] at hn; cases hn
  · exact acceptAny_context (h.imp id And.right) k

/-- In the foreground context an operation of either kind is accepted as a foreground one (R94). -/
theorem Meaning.exec_allIdle (hk : Meaning i k) (h : s.allIdle = true) : exec i s = acceptForeground s k := by
  rw [hk.accepted]
  split
  · rfl
  · rw [acceptAny, if_pos h]

theorem acceptForeground_busy_iff (h : s.allIdle = true) (hk : k s ≠ .refused .busy) :
    acceptForeground s k = .refused .busy ↔ s.fg.op ≠ none := by
  rw [acceptForeground, if_pos h]
  cases hop : s.fg.op with
  | some op => simp
  | none =>
    cases hm : s.foregroundMayAct with
    | true => simpa using hk
    | false => simp

theorem acceptForeground_someHandler (h : s.someHandler = true) :
    acceptForeground s k = .refused .interruptContext := by
  simp [acceptForeground, State.allIdle_of_someHandler h, h]

/-- In the interrupt context an operation of both contexts is accepted unless a BusFault made that context stuck. -/
theorem acceptAny_someHandler (h : s.someHandler = true) :
    acceptAny s k = if s.handlerFault = none then k s else .refused .hostHasNoMove := by
  simp [acceptAny, State.allIdle_of_someHandler h, State.handlerMayAct, h]

theorem acceptForeground_noContext (hidle : s.allIdle = false) (hh : s.someHandler = false) :
    acceptForeground s k = .refused .hostHasNoMove := by
  simp [acceptForeground, hidle, hh]

theorem acceptAny_noContext (hidle : s.allIdle = false) (hh : s.someHandler = false) :
    acceptAny s k = .refused .hostHasNoMove := by
  simp [acceptAny, hidle, State.handlerMayAct, hh]

/-- With dispatchers running and none in a handler no operation is accepted (R94). -/
theorem exec_noContext (hwf : i.wf = true) (hidle : s.allIdle = false) (hh : s.someHandler = false) :
    exec i s = .refused .hostHasNoMove := by
  obtain ⟨k, hk⟩ := exec_meaning hwf
  rw [hk.accepted, acceptForeground_noContext hidle hh, acceptAny_noContext hidle hh, ite_self]

theorem presentCommand_noContext (w : Word) (hidle : s.allIdle = false) (hh : s.someHandler = false) :
    presentCommand w s = .refused .hostHasNoMove := by
  unfold presentCommand
  split
  · next i hi => exact exec_noContext (s := { s with cmd := w }) (encode_of_decode hi).1 hidle hh
  · have hm : State.hostMayAct { s with cmd := w } ≠ true := fun hm => by
      obtain ⟨h, -⟩ | ⟨h, -⟩ := State.hostMayAct_iff.mp hm
      · cases hidle.symm.trans h
      · cases hh.symm.trans h
    exact if_neg hm

end

/-- Settles O8: each context's answer is acceptance's own or, where it accepts, that of `Meaning`. -/
theorem acceptanceFollowsTheContext : Obligations.AcceptanceFollowsTheContext := by
  intro i s hwf
  obtain ⟨k, hk⟩ := exec_meaning hwf
  simp only [← State.allIdle_iff, ← State.someHandler_iff]
  refine ⟨fun hidle => ?_, fun hh => ⟨?_, fun hi hn => ?_⟩, fun ⟨j, hj⟩ => ?_⟩
  · rw [hk.exec_allIdle hidle]
    exact acceptForeground_busy_iff hidle (hk.notBusy s)
  · rw [hk.accepted]
    cases hi : foregroundOnly i with
    | true => simp [acceptForeground_someHandler hh]
    | false =>
      obtain ⟨t, ht, -⟩ := hk.completes hi s
      rw [if_neg Bool.false_ne_true, acceptAny_someHandler hh, ht]
      split <;> simp
  · obtain ⟨t, ht, hfg⟩ := hk.completes hi s
    have hacc : s.accepts i := .inr ⟨hi, State.allIdle_of_someHandler hh, hh, hn⟩
    exact ⟨t, (hk.exec_accepts hacc).trans ht, hfg⟩
  · have hidle : s.allIdle = false := Bool.eq_false_iff.mpr fun h => hj (s.allIdle_iff.mp h j)
    refine ⟨foregroundStep_refused fun hm => ?_, fun hno => ?_⟩
    · rw [(s.foregroundMayAct_iff.mp hm).1] at hidle; cases hidle
    · have hh : s.someHandler = false := Bool.eq_false_iff.mpr fun h => by
        obtain ⟨l, m, hlm⟩ := s.someHandler_iff.mp h
        exact hno l m hlm
      exact ⟨exec_noContext hwf hidle hh, fun w => presentCommand_noContext w hidle hh⟩

/-! ### A unit that is unknown, unbound or disabled -/

theorem Uart.usable_eq_false_iff {u : Uart} : u.usable = false ↔ u.cfgv = false ∨ u.cfg.mode = .disabled := by
  rw [Uart.usable, Bool.and_eq_false_iff, decide_eq_false_iff_not, not_not]

/-- CheckInst's error, at S0 of SEND and FSEND (R125). -/
theorem sendStart_unusable {j : Unit6} {s : State} (h : (s.uart j).usable = false) (name : OpName) (op : FgOp)
    (len : Half) : sendStart name op j len s = .next (s.raise name) := by
  simp [sendStart, h]

/-- CheckInst's error, at S0 of RECV (R125). -/
theorem recvStart_unusable {j : Unit6} {s : State} (h : (s.uart j).usable = false) (circ : Bool) (len : Half) :
    recvStart j circ len s = .next (s.raise .recv) := by
  simp [recvStart, h]

/-- Settles O18: the INST field is checked first of all (`Meaning.noUnit`), and CheckInst before any other effect. -/
theorem unknownOrUnusableUnitIsAConfigurationError : Obligations.UnknownOrUnusableUnitIsAConfigurationError := by
  refine ⟨fun i s n hwf hn hno hacc => ?_, fun s j len circ v hf hu => ⟨fun i hi => ?_, ?_⟩⟩
  · obtain ⟨k, hk⟩ := exec_meaning hwf
    exact (hk.exec_accepts hacc).trans (hk.noUnit n hn (unitOf_namesNoUnit hno) s)
  · have hu : (s.uart j).usable = false := Uart.usable_eq_false_iff.mpr hu
    simp only [List.mem_cons, List.not_mem_nil, or_false] at hi
    obtain rfl | rfl | rfl | rfl := hi
    · simp only [exec, execSend, acceptForeground_free hf, unitOf_unitNumber]
      exact sendStart_unusable hu _ _ len
    · simp only [exec, execRecv, acceptForeground_free hf, unitOf_unitNumber]
      exact recvStart_unusable hu circ len
    · simp only [exec, execSendb, acceptForeground_free hf, unitOf_unitNumber, hu]
      rfl
    · simp only [exec, execRecvb, acceptForeground_free hf, unitOf_unitNumber, hu]
      rfl
  · rintro rfl
    simp only [exec, execFsend, acceptForeground_free hf]
    exact sendStart_unusable (Uart.usable_eq_false_iff.mpr hu) _ _ len

end Sys2Proof.Machine
end

section
/-! PROOFS. The rationals of the prescaler solver (R14, R103 to R109, R113): rounding to the nearest integer, the relative error
of a divisor, and the register image of a result. -/

namespace Sys2Proof.Machine

/-! ### Rounding to the nearest integer -/

/-- `baudDivisor` is the quotient rounded half up; where the divisor is 0 both sides are 0. -/
theorem floor_div_add_half (clk d : Nat) : ⌊(clk : Rat) / d + 1 / 2⌋ = (baudDivisor clk d : Int) := by
  obtain rfl | hd := Nat.eq_zero_or_pos d
  · norm_num [baudDivisor]
  · have h : (clk : Rat) / d + 1 / 2 = ((2 * clk + d : Nat) : Rat) / ((2 * d : Nat) : Rat) := by
      push_cast
      field_simp
    rw [h, Rat.floor_natCast_div_natCast, baudDivisor, Int.natCast_ediv]

/-- R108's fine divisor is a rounding of the same form, by `t * c`. -/
theorem timerFine_eq (clk t c : Nat) : timerFine clk t c = baudDivisor clk (t * c) := by
  rw [timerFine, baudDivisor, mul_assoc]

theorem floor_div_mul_add_half (clk t c : Nat) :
    ⌊(clk : Rat) / (t * c) + 1 / 2⌋ = (timerFine clk t c : Int) := by
  rw [timerFine_eq, ← floor_div_add_half, Nat.cast_mul]

section
variable {clk t d n : Nat}

theorem baudDivisor_lt_iff (ht : 0 < t) : baudDivisor clk t < n ↔ 2 * clk + t < n * (2 * t) :=
  Nat.div_lt_iff_lt_mul (by omega)

theorem le_baudDivisor_iff (ht : 0 < t) : n ≤ baudDivisor clk t ↔ n * (2 * t) ≤ 2 * clk + t :=
  Nat.le_div_iff_mul_le (by omega)

theorem baudDivisor_zero_clock : baudDivisor 0 t = 0 := by
  obtain rfl | ht := Nat.eq_zero_or_pos t
  · rfl
  · exact Nat.div_eq_of_lt (by omega)

/-- Whole multiples of the target pass through the rounding (R104). -/
theorem baudDivisor_add_mul (ht : 0 < t) (n r : Nat) : baudDivisor (t * n + r) t = n + baudDivisor r t := by
  have h : 2 * (t * n + r) + t = (2 * r + t) + 2 * t * n := by ring
  rw [baudDivisor, baudDivisor, h, Nat.add_mul_div_left _ _ (by omega), Nat.add_comm]

theorem baudDivisor_mul (ht : 0 < t) (n : Nat) : baudDivisor (t * n) t = n := by
  rw [← Nat.add_zero (t * n), baudDivisor_add_mul ht, baudDivisor_zero_clock, Nat.add_zero]

/-! ### The relative error -/

theorem absDiff_cast (a b : Nat) : (absDiff a b : Rat) = |(a : Rat) - b| := by
  unfold absDiff
  split
  · next h => rw [Nat.cast_sub h, abs_of_nonneg (sub_nonneg.mpr (Nat.cast_le.mpr h))]
  · next h =>
    have h : a ≤ b := by omega
    rw [Nat.cast_sub h, abs_sub_comm, abs_of_nonneg (sub_nonneg.mpr (Nat.cast_le.mpr h))]

/-- The nearest multiple of the target is at most half a target away (R106, R109). -/
theorem absDiff_baudDivisor_le (ht : 0 < t) : 2 * absDiff clk (t * baudDivisor clk t) ≤ t := by
  have hlo := (le_baudDivisor_iff (clk := clk) ht).mp le_rfl
  have hhi := (baudDivisor_lt_iff (clk := clk) ht).mp (Nat.lt_add_one _)
  have hl : baudDivisor clk t * (2 * t) = 2 * (t * baudDivisor clk t) := by ring
  have hh : (baudDivisor clk t + 1) * (2 * t) = 2 * (t * baudDivisor clk t) + 2 * t := by ring
  unfold absDiff
  split <;> omega

theorem relativeError_nonneg : 0 ≤ relativeError clk t d := by
  unfold relativeError
  positivity

/-- R106, R109: the error of the integer form is the relative error of the frequency clk / d. -/
theorem relativeError_eq (ht : 0 < t) (hd : 0 < d) : relativeError clk t d = |(clk : Rat) / d - t| / t := by
  have hd' : (0 : Rat) < d := Nat.cast_pos.mpr hd
  have ht' : (0 : Rat) < t := Nat.cast_pos.mpr ht
  have h : (clk : Rat) / d - t = (clk - t * d) / d := by field_simp
  rw [relativeError, absDiff_cast, h, abs_div, abs_of_pos hd', Nat.cast_mul]
  field_simp

/-- A product that gives the clock exactly has no error (R106, R114). -/
theorem relativeError_exact (h : clk = t * d) : relativeError clk t d = 0 := by
  simp [relativeError, absDiff, ← h]

/-- A divisor of at least n, rounded to the nearest, has a relative error of at most 1 / (2 * n) (R106, R109). -/
theorem relativeError_baudDivisor_le (ht : 0 < t) (hn : 0 < n) (h : n ≤ baudDivisor clk t) :
    relativeError clk t (baudDivisor clk t) ≤ 1 / (2 * n) := by
  have hden : 0 < t * baudDivisor clk t := Nat.mul_pos ht (by omega)
  rw [relativeError, div_le_div_iff₀ (Nat.cast_pos.mpr hden) (by positivity)]
  norm_cast
  calc absDiff clk (t * baudDivisor clk t) * (2 * n)
      = 2 * absDiff clk (t * baudDivisor clk t) * n := by ring
    _ ≤ t * baudDivisor clk t := Nat.mul_le_mul (absDiff_baudDivisor_le ht) h
    _ = 1 * (t * baudDivisor clk t) := (Nat.one_mul _).symm

/-! ### Ratios -/

theorem Ratio.value_mk (a b : Nat) : Ratio.value ⟨a, b⟩ = (a : Rat) / b := rfl

theorem Ratio.value_percent (clk t d : Nat) :
    Ratio.value ⟨100 * absDiff clk (t * d), t * d⟩ = 100 * relativeError clk t d := by
  simp [Ratio.value, relativeError, mul_div_assoc]

theorem Ratio.value_nonneg (q : Ratio) : 0 ≤ q.value := by
  unfold Ratio.value
  positivity

theorem Ratio.floor_value (q : Ratio) : (q.floor : Int) = q.value.floor :=
  ((Rat.floor_natCast_div_natCast q.num q.den).trans (Int.natCast_ediv _ _).symm).symm

theorem Ratio.ceilTenThousand_le_iff {q : Ratio} (h : 0 < q.den) :
    q.ceilTenThousand ≤ n ↔ 10000 * q.value ≤ n := by
  have hq : q.ceilTenThousand = (10000 * q.num) ⌈/⌉ q.den := by
    rw [Ratio.ceilTenThousand, Nat.ceilDiv_eq_add_pred_div, Nat.add_sub_assoc h]
  have hden : (0 : Rat) < q.den := Nat.cast_pos.mpr h
  rw [hq, ceilDiv_le_iff_le_mul h, Ratio.value, mul_div_assoc', div_le_iff₀' hden]
  norm_cast

theorem Ratio.ceilTenThousand_value {q : Ratio} (h : 0 < q.den) :
    (q.ceilTenThousand : Int) = (10000 * q.value).ceil := by
  refine le_antisymm ?_ (Rat.ceil_le_iff.mpr ((ceilTenThousand_le_iff h).mp le_rfl))
  have hceil : 10000 * q.value ≤ ((10000 * q.value).ceil : Rat) := Rat.ceil_le_iff.mp le_rfl
  have hpos : (0 : Rat) ≤ ((10000 * q.value).ceil : Rat) := by linarith [q.value_nonneg]
  obtain ⟨k, hk⟩ := Int.eq_ofNat_of_zero_le (Int.cast_nonneg_iff.mp hpos)
  rw [hk] at hceil ⊢
  exact Int.ofNat_le.mpr ((ceilTenThousand_le_iff h).mpr hceil)

theorem Ratio.ceilTenThousand_eq_zero_iff {q : Ratio} (h : 0 < q.den) : q.ceilTenThousand = 0 ↔ q.value = 0 := by
  rw [← Nat.le_zero, ceilTenThousand_le_iff h, Nat.cast_zero]
  have := q.value_nonneg
  constructor <;> intro <;> linarith

/-! ### The register image -/

/-- The form of every result for the clock clk: divisors within the timer's range, a frequency with clk over its
divisor, and an error of at most `bound` percent. -/
structure Solution.Fits (clk : Nat) (bound : Rat) (x : Solution) : Prop where
  coarse_pos : 1 ≤ x.coarse
  coarse_le  : x.coarse ≤ 65536
  fine_le    : x.fine ≤ 65536
  freq_num   : x.actualFreq.num = clk
  error_den  : 0 < x.errorPercent.den
  error_le   : x.errorPercent.value ≤ bound

/-- R113: the image is whole in 32 bits; the error is at most n parts per million, and 0 only where it is exactly 0. -/
theorem Solution.Fits.image {x : Solution} {bound : Rat} (h : x.Fits clk bound) (hclk : clk < 2 ^ 32)
    (hn : n < 2 ^ 32) (hb : 10000 * bound ≤ n) :
    x.Image (solverImage (some x)) ∧ 1 ≤ (solverImage (some x)).q0.toNat ∧ (solverImage (some x)).q3.toNat ≤ n ∧
    ((solverImage (some x)).q3 = 0#32 ↔ x.errorPercent.value = 0) := by
  obtain ⟨hc1, hc, hf, hnum, hden, herr⟩ := h
  have hq3 : x.errorPercent.ceilTenThousand ≤ n := (Ratio.ceilTenThousand_le_iff hden).mpr (by linarith)
  have hq2 : x.actualFreq.floor ≤ clk := hnum ▸ Nat.div_le_self _ _
  have h0 : (solverImage (some x)).q0.toNat = x.coarse := Nat.mod_eq_of_lt (by omega)
  have h1 : (solverImage (some x)).q1.toNat = x.fine := Nat.mod_eq_of_lt (by omega)
  have h2 : (solverImage (some x)).q2.toNat = x.actualFreq.floor := Nat.mod_eq_of_lt (by omega)
  have h3 : (solverImage (some x)).q3.toNat = x.errorPercent.ceilTenThousand := Nat.mod_eq_of_lt (by omega)
  refine ⟨⟨h0, h1, ?_, ?_⟩, h0 ▸ hc1, h3 ▸ hq3, ?_⟩
  · rw [h2, x.actualFreq.floor_value]
  · rw [h3, Ratio.ceilTenThousand_value hden]
  · rw [← Ratio.ceilTenThousand_eq_zero_iff hden, ← h3, ← BitVec.toNat_inj]
    rfl

end

end Sys2Proof.Machine
end

section
/-! PROOFS. The baud variant of the prescaler solver (R103 to R106). -/

namespace Sys2Proof.Machine

section
variable {clk t : Nat} {x : Solution}

/-- What a solution for clk and t is: the divisor word in range, cut into its two parts, with its frequency and error. -/
structure Solution.OfBaud (clk t : Nat) (x : Solution) : Prop where
  target_pos : 0 < t
  le_divisor : 16 ≤ baudDivisor clk t
  divisor_le : baudDivisor clk t ≤ 65535
  coarse_eq  : x.coarse = baudDivisor clk t / 16
  fine_eq    : x.fine = baudDivisor clk t % 16
  freq_eq    : x.actualFreq = ⟨clk, baudDivisor clk t⟩
  error_eq   : x.errorPercent = ⟨100 * absDiff clk (t * baudDivisor clk t), t * baudDivisor clk t⟩

theorem solveBaud_eq_none_iff :
    solveBaud clk t = none ↔ t = 0 ∨ baudDivisor clk t < 16 ∨ 65535 < baudDivisor clk t := by
  unfold solveBaud
  split
  · simp [*]
  · simp only [*, false_or, Bool.or_eq_true, decide_eq_true_eq, ite_eq_left_iff, reduceCtorEq, imp_false, not_not]
    exact Iff.rfl

theorem solveBaud_some (h : solveBaud clk t = some x) : x.OfBaud clk t := by
  have hn : ¬(t = 0 ∨ baudDivisor clk t < 16 ∨ 65535 < baudDivisor clk t) := fun hn => by
    rw [solveBaud_eq_none_iff.mpr hn] at h
    cases h
  unfold solveBaud at h
  split at h
  · cases h
  · simp only at h
    split at h
    · cases h
    · cases h
      exact ⟨by omega, by omega, by omega, rfl, rfl, rfl, rfl⟩

namespace Solution.OfBaud

/-- The two divisors are the two parts of the divisor word. -/
theorem divisor (h : x.OfBaud clk t) : 16 * x.coarse + x.fine = baudDivisor clk t := by
  rw [h.coarse_eq, h.fine_eq, Nat.div_add_mod]

theorem error_value (h : x.OfBaud clk t) :
    x.errorPercent.value = 100 * relativeError clk t (baudDivisor clk t) := by
  rw [h.error_eq, Ratio.value_percent]

/-- R106: the divisor is at least 16, so the nearest one is wrong by at most a 32nd. -/
theorem error_le (h : x.OfBaud clk t) : x.errorPercent.value ≤ 3.125 := by
  have he := relativeError_baudDivisor_le h.target_pos (by decide) h.le_divisor
  rw [h.error_value]
  norm_num at he ⊢
  linarith

theorem fits (h : x.OfBaud clk t) : x.Fits clk 3.125 := by
  have hle := h.error_le
  obtain ⟨ht, hlo, hhi, hc, hf, hfreq, herr⟩ := h
  refine ⟨by omega, by omega, by omega, by rw [hfreq], ?_, hle⟩
  rw [herr]
  exact Nat.mul_pos ht (by omega)

end Solution.OfBaud

/-- R105's bounds of the divisor as bounds of the exact quotient. -/
theorem solveBaud_eq_none_iff_quotient (ht : 0 < t) :
    solveBaud clk t = none ↔ (clk : Rat) / t < 15.5 ∨ 65535.5 ≤ (clk : Rat) / t := by
  have ht' : (0 : Rat) < t := Nat.cast_pos.mpr ht
  have hlo : (clk : Rat) / t < 15.5 ↔ baudDivisor clk t < 16 := by
    rw [← Nat.cast_lt (α := Int), ← floor_div_add_half, Int.floor_lt]
    norm_num
    constructor <;> intro <;> linarith
  have hhi : 65535.5 ≤ (clk : Rat) / t ↔ 65535 < baudDivisor clk t := by
    rw [← Nat.succ_le_iff, ← Nat.cast_le (α := Int), ← floor_div_add_half, Int.le_floor]
    norm_num
    constructor <;> intro <;> linarith
  rw [solveBaud_eq_none_iff, hlo, hhi, or_iff_right ht.ne']

end

/-- Settles O10: 16 * m0 is whole, so it passes through the rounding (R104), and what is left is the remainder's. -/
theorem baudDivisorIsOneRounding : Obligations.BaudDivisorIsOneRounding := by
  intro clk t ht
  have ht' : (t : Rat) ≠ 0 := by positivity
  have hclk : clk = t * (16 * (clk / (16 * t))) + clk % (16 * t) := by
    conv_lhs => rw [← Nat.div_add_mod clk (16 * t)]
    ring
  have hsum : 16 * (clk / (16 * t)) + baudDivisor (clk % (16 * t)) t = baudDivisor clk t := by
    conv_rhs => rw [hclk, baudDivisor_add_mul ht]
  have hq : baudDivisor (clk % (16 * t)) t ≤ 16 := by
    rw [← Nat.lt_succ_iff, baudDivisor_lt_iff ht]
    have := Nat.mod_lt clk (show 0 < 16 * t by omega)
    omega
  have hrest : ((clk : Rat) / (16 * t) - (clk / (16 * t) : Nat)) * 16 + 1 / 2 =
      ((clk % (16 * t) : Nat) : Rat) / t + 1 / 2 := by
    have hclk' : (clk : Rat) = t * (16 * (clk / (16 * t) : Nat)) + (clk % (16 * t) : Nat) := by exact_mod_cast hclk
    rw [hclk']
    field_simp
    ring
  refine ⟨clk / (16 * t), baudDivisor (clk % (16 * t)) t, ?_, ?_, hq, ?_, hsum, fun x hx => ?_⟩
  · exact_mod_cast (Rat.floor_natCast_div_natCast clk (16 * t)).symm
  · rw [hrest, floor_div_add_half]
  · rw [hsum, floor_div_add_half]
  · have hx := solveBaud_some hx
    have hdiv := hx.divisor
    have hfine := hx.fine_eq
    omega

/-- Settles O11: the divisor word is the quotient rounded, so its bounds, frequency and error are the quotient's. -/
theorem solveBaudRangeAndError : Obligations.SolveBaudRangeAndError := by
  intro clk t
  refine ⟨?_, solveBaud_eq_none_iff_quotient, fun x hx => ?_⟩
  · rw [floor_div_add_half, solveBaud_eq_none_iff]
    norm_cast
  · have hx := solveBaud_some hx
    have hdiv := hx.divisor
    have hval := hx.error_value
    have hle := hx.error_le
    obtain ⟨ht, hlo, hhi, hcoarse, hfine, hfreq, -⟩ := hx
    have hsteps : (16 : Rat) * (x.coarse + x.fine / 16) = baudDivisor clk t := by
      rw [← hdiv]
      push_cast
      ring
    refine ⟨by omega, ?_, ?_, hle, ?_⟩
    · rw [hsteps, hfreq, Ratio.value_mk]
    · rw [hval, relativeError_eq ht (by omega), hfreq, Ratio.value_mk, mul_div_assoc]
    · rintro ⟨n, rfl⟩
      rw [hdiv, hval, baudDivisor_mul ht, Nat.mul_div_cancel_left n ht, relativeError_exact rfl, mul_zero]
      exact ⟨rfl, rfl⟩

end Sys2Proof.Machine
end

section
/-! PROOFS. The timer variant of the prescaler solver (R107 to R112, R114): what the search keeps is the first candidate of
least error. -/

namespace Sys2Proof.Machine

/-! ### Candidates -/

/-- The relative error of a candidate (R109). -/
def Candidate.error (x : Candidate) : Rat := (x.num : Rat) / (x.den : Rat)

section
variable {clk t c n m : Nat} {x b : Candidate} {best : Option Candidate}

theorem timerCandidate_eq_none_iff :
    timerCandidate clk t c = none ↔ timerFine clk t c < 1 ∨ 65536 < timerFine clk t c := by
  simp only [timerCandidate, Bool.or_eq_true, decide_eq_true_eq, ite_eq_left_iff, reduceCtorEq, imp_false, not_not]
  exact Iff.rfl

theorem timerCandidate_of_fine (hlo : 1 ≤ timerFine clk t c) (hhi : timerFine clk t c ≤ 65536) :
    timerCandidate clk t c =
      some ⟨c, timerFine clk t c, absDiff clk (t * c * timerFine clk t c), t * c * timerFine clk t c⟩ := by
  have hr : ¬(timerFine clk t c < 1 ∨ fineMax < timerFine clk t c) := by
    unfold fineMax
    omega
  simp only [timerCandidate, Bool.or_eq_true, decide_eq_true_eq]
  exact if_neg hr

theorem timerCandidate_some (h : timerCandidate clk t c = some x) :
    1 ≤ timerFine clk t c ∧ timerFine clk t c ≤ 65536 ∧
      x = ⟨c, timerFine clk t c, absDiff clk (t * c * timerFine clk t c), t * c * timerFine clk t c⟩ := by
  have hn : ¬(timerFine clk t c < 1 ∨ 65536 < timerFine clk t c) := fun hn => by
    rw [timerCandidate_eq_none_iff.mpr hn] at h
    cases h
  have hlo : 1 ≤ timerFine clk t c := by omega
  have hhi : timerFine clk t c ≤ 65536 := by omega
  exact ⟨hlo, hhi, (Option.some.inj ((timerCandidate_of_fine hlo hhi).symm.trans h)).symm⟩

theorem timerCandidate_error (h : timerCandidate clk t c = some x) : x.error = relativeError clk t (c * x.f) := by
  obtain ⟨-, -, rfl⟩ := timerCandidate_some h
  rw [relativeError, Candidate.error, mul_assoc]

theorem timerCandidate_den_pos (ht : 0 < t) (hc : 1 ≤ c) (h : timerCandidate clk t c = some x) : 0 < x.den := by
  obtain ⟨hf, -, rfl⟩ := timerCandidate_some h
  exact Nat.mul_pos (Nat.mul_pos ht hc) hf

/-- Cross-multiplication compares the errors themselves (R109). -/
theorem Candidate.improves_some_iff (hx : 0 < x.den) (hb : 0 < b.den) :
    x.improves (some b) = true ↔ x.error < b.error := by
  rw [Candidate.error, Candidate.error, div_lt_div_iff₀ (Nat.cast_pos.mpr hx) (Nat.cast_pos.mpr hb)]
  simp only [Candidate.improves, decide_eq_true_eq]
  norm_cast

/-! ### The search -/

/-- `best` is what the search keeps of the coarse divisors below n: the first candidate of least error, if there is any
(R110). -/
structure BestBelow (clk t n : Nat) (best : Option Candidate) : Prop where
  found : ∀ b, best = some b → 1 ≤ b.c ∧ b.c < n ∧ timerCandidate clk t b.c = some b
  least : ∀ c x, 1 ≤ c → c < n → timerCandidate clk t c = some x →
    ∃ b, best = some b ∧ b.error ≤ x.error ∧ (c < b.c → b.error < x.error)

namespace BestBelow

theorem one (clk t : Nat) : BestBelow clk t 1 none := ⟨nofun, fun _ _ _ _ => by omega⟩

theorem of_none (h : BestBelow clk t n none) (hc : 1 ≤ c) (hn : c < n) : timerCandidate clk t c = none := by
  cases hx : timerCandidate clk t c with
  | none => rfl
  | some x =>
    obtain ⟨b, hb, -⟩ := h.least c x hc hn hx
    cases hb

/-- Larger coarse divisors that do not improve on the best so far leave it in place. -/
theorem extend (h : BestBelow clk t n best) (hnm : n ≤ m)
    (hno : ∀ c x, n ≤ c → c < m → timerCandidate clk t c = some x → ∃ b, best = some b ∧ b.error ≤ x.error) :
    BestBelow clk t m best := by
  refine ⟨fun b hb => ?_, fun c x hc hm hx => ?_⟩
  · obtain ⟨h1, hn, hcand⟩ := h.found b hb
    exact ⟨h1, by omega, hcand⟩
  · by_cases hn : c < n
    · exact h.least c x hc hn hx
    · obtain ⟨b, hb, hle⟩ := hno c x (by omega) hm hx
      obtain ⟨-, hbn, -⟩ := h.found b hb
      exact ⟨b, hb, hle, by omega⟩

/-- A candidate that improves on the best so far replaces it. -/
theorem replace (h : BestBelow clk t n best) (hn : 1 ≤ n) (hx : timerCandidate clk t n = some x)
    (hlt : ∀ b, best = some b → x.error < b.error) : BestBelow clk t (n + 1) (some x) := by
  have hxc : x.c = n := by
    obtain ⟨-, -, rfl⟩ := timerCandidate_some hx
    rfl
  refine ⟨?_, fun c y hc hcn hy => ⟨x, rfl, ?_⟩⟩
  · rintro _ ⟨⟩
    exact ⟨hxc ▸ hn, hxc ▸ Nat.lt_add_one n, hxc ▸ hx⟩
  · by_cases hlast : c = n
    · subst hlast
      cases hx.symm.trans hy
      exact ⟨le_rfl, by omega⟩
    · obtain ⟨b, hb, hby, -⟩ := h.least c y hc (by omega) hy
      have := (hlt b hb).trans_le hby
      exact ⟨this.le, fun _ => this⟩

theorem skip (h : BestBelow clk t n best) (hx : timerCandidate clk t n = none) : BestBelow clk t (n + 1) best := by
  refine h.extend (Nat.le_add_right n 1) fun c y hn hlt hy => ?_
  obtain rfl : c = n := by omega
  cases hx.symm.trans hy

theorem keep (h : BestBelow clk t n best) (hx : timerCandidate clk t n = some x)
    (hno : ¬ ∀ b, best = some b → x.error < b.error) : BestBelow clk t (n + 1) best := by
  push Not at hno
  obtain ⟨b, hb, hle⟩ := hno
  refine h.extend (Nat.le_add_right n 1) fun c y hn hlt hy => ⟨b, hb, ?_⟩
  obtain rfl : c = n := by omega
  cases hx.symm.trans hy
  exact hle

/-- No later candidate is better than an exact one, so the search may stop there (R111). -/
theorem exact_extend (h : BestBelow clk t n (some x)) (hx : x.num = 0) (hnm : n ≤ m) : BestBelow clk t m (some x) :=
  h.extend hnm fun c y _ _ _ => ⟨x, rfl, by
    rw [Candidate.error, Candidate.error, hx, Nat.cast_zero, zero_div]
    positivity⟩

/-- The search's test compares the errors, of the best so far and of a candidate (R110). -/
theorem improves_iff (h : BestBelow clk t n best) (ht : 0 < t) (hn : 1 ≤ n)
    (hx : timerCandidate clk t n = some x) :
    x.improves best = true ↔ ∀ b, best = some b → x.error < b.error := by
  cases best with
  | none => simp [Candidate.improves]
  | some b =>
    obtain ⟨hb1, -, hb⟩ := h.found b rfl
    rw [Candidate.improves_some_iff (timerCandidate_den_pos ht hn hx) (timerCandidate_den_pos ht hb1 hb)]
    simp

end BestBelow

theorem timerSearch_best (ht : 0 < t) (fuel c : Nat) (best : Option Candidate) (hc : 1 ≤ c)
    (h : BestBelow clk t c best) : BestBelow clk t (c + fuel) (timerSearch clk t fuel c best) := by
  induction fuel generalizing c best with
  | zero => exact h
  | succ fuel ih =>
    have hnext : ∀ best', BestBelow clk t (c + 1) best' →
        BestBelow clk t (c + (fuel + 1)) (timerSearch clk t fuel (c + 1) best') := fun best' h' => by
      have := ih (c + 1) best' (by omega) h'
      rwa [Nat.add_right_comm, Nat.add_assoc] at this
    rw [timerSearch]
    split
    · next hnone => exact hnext best (h.skip hnone)
    · next x hx =>
      split
      · next himp =>
        have hbest := h.replace hc hx ((h.improves_iff ht hc hx).mp himp)
        split
        · next hzero => exact hbest.exact_extend hzero (by omega)
        · exact hnext _ hbest
      · next hno => exact hnext best (h.keep hx fun hlt => hno ((h.improves_iff ht hc hx).mpr hlt))

/-! ### The result -/

/-- The divisors, frequency and error of a result of the timer variant, and that no other candidate is better (R107 to
R110). -/
structure Solution.OfTimer (clk t : Nat) (x : Solution) : Prop where
  target_pos : 0 < t
  coarse_pos : 1 ≤ x.coarse
  coarse_le  : x.coarse ≤ 65536
  fine_eq    : x.fine = timerFine clk t x.coarse
  fine_pos   : 1 ≤ x.fine
  fine_le    : x.fine ≤ 65536
  freq_eq    : x.actualFreq = ⟨clk, x.coarse * x.fine⟩
  error_eq   : x.errorPercent = ⟨100 * absDiff clk (t * (x.coarse * x.fine)), t * (x.coarse * x.fine)⟩
  least      : ∀ c, 1 ≤ c → c ≤ 65536 → 1 ≤ timerFine clk t c → timerFine clk t c ≤ 65536 →
    relativeError clk t (x.coarse * x.fine) ≤ relativeError clk t (c * timerFine clk t c) ∧
    (c < x.coarse → relativeError clk t (x.coarse * x.fine) < relativeError clk t (c * timerFine clk t c))

theorem timerSearch_all (ht : 0 < t) : BestBelow clk t 65537 (timerSearch clk t coarseMax 1 none) :=
  timerSearch_best ht coarseMax 1 none le_rfl (BestBelow.one clk t)

theorem solveTimer_eq_none_iff :
    solveTimer clk t = none ↔
      t = 0 ∨ ∀ c, 1 ≤ c → c ≤ 65536 → timerFine clk t c < 1 ∨ 65536 < timerFine clk t c := by
  obtain rfl | ht := Nat.eq_zero_or_pos t
  · simp [solveTimer]
  · have hall := timerSearch_all (clk := clk) ht
    simp only [solveTimer, ht.ne', if_false, false_or, ← timerCandidate_eq_none_iff]
    cases hbest : timerSearch clk t coarseMax 1 none with
    | none =>
      rw [hbest] at hall
      exact iff_of_true rfl fun c hc hle => hall.of_none hc (by omega)
    | some b =>
      obtain ⟨h1, hlt, hb⟩ := hall.found b hbest
      refine iff_of_false nofun fun hnone => ?_
      cases hb.symm.trans (hnone b.c h1 (by omega))

theorem solveTimer_some {x : Solution} (h : solveTimer clk t = some x) : x.OfTimer clk t := by
  obtain rfl | ht := Nat.eq_zero_or_pos t
  · cases h
  · have hall := timerSearch_all (clk := clk) ht
    simp only [solveTimer, ht.ne', if_false] at h
    cases hbest : timerSearch clk t coarseMax 1 none with
    | none =>
      rw [hbest] at h
      cases h
    | some b =>
      rw [hbest] at h hall
      obtain ⟨h1, hlt, hb⟩ := hall.found b rfl
      have herr := timerCandidate_error hb
      obtain ⟨hlo, hhi, hbeq⟩ := timerCandidate_some hb
      have hf : b.f = timerFine clk t b.c := congrArg Candidate.f hbeq
      cases h
      refine ⟨ht, h1, by simp only; omega, hf, hf ▸ hlo, hf ▸ hhi, rfl, ?_, fun c hc hle hc1 hc2 => ?_⟩
      · simp only [congrArg Candidate.num hbeq, congrArg Candidate.den hbeq, hf, mul_assoc]
      · obtain ⟨b', ⟨⟩, hmin⟩ := hall.least c _ hc (by omega) (timerCandidate_of_fine hc1 hc2)
        rwa [herr, timerCandidate_error (timerCandidate_of_fine hc1 hc2)] at hmin

namespace Solution.OfTimer
variable {x : Solution}

theorem error_value (h : x.OfTimer clk t) :
    x.errorPercent.value = 100 * relativeError clk t (x.coarse * x.fine) := by
  rw [h.error_eq, Ratio.value_percent]

/-- R109: the fine divisor is the nearest one and at least 1, so it is wrong by at most a half. -/
theorem error_le (h : x.OfTimer clk t) : x.errorPercent.value ≤ 50 := by
  have hf : x.fine = baudDivisor clk (t * x.coarse) := h.fine_eq.trans (timerFine_eq clk t x.coarse)
  have hrel : relativeError clk t (x.coarse * x.fine) = relativeError clk (t * x.coarse) x.fine := by
    rw [relativeError, relativeError, mul_assoc]
  have he := relativeError_baudDivisor_le (Nat.mul_pos h.target_pos h.coarse_pos) one_pos (hf ▸ h.fine_pos)
  rw [← hf, ← hrel] at he
  rw [h.error_value]
  norm_num at he
  linarith

theorem fits (h : x.OfTimer clk t) : x.Fits clk 50 := by
  refine ⟨h.coarse_pos, h.coarse_le, h.fine_le, by rw [h.freq_eq], ?_, h.error_le⟩
  rw [h.error_eq]
  exact Nat.mul_pos h.target_pos (Nat.mul_pos h.coarse_pos h.fine_pos)

/-- R114: where some pair in range divides the clock exactly, that pair is a candidate without error. -/
theorem error_exact (h : x.OfTimer clk t) {c f : Nat} (hc : 1 ≤ c) (hcle : c ≤ 65536) (hf : 1 ≤ f) (hfle : f ≤ 65536)
    (hclk : clk = t * (c * f)) : x.errorPercent.value = 0 := by
  have hfine : timerFine clk t c = f := by
    rw [timerFine_eq, hclk, ← mul_assoc, baudDivisor_mul (Nat.mul_pos h.target_pos hc)]
  have hle := (h.least c hc hcle (hfine ▸ hf) (hfine ▸ hfle)).1
  rw [hfine, relativeError_exact hclk] at hle
  rw [h.error_value, le_antisymm hle relativeError_nonneg, mul_zero]

end Solution.OfTimer

/-- A target of more than twice the clock rounds to the fine divisor 0 for every coarse divisor (R112). -/
theorem timerFine_lt_one (hc : 1 ≤ c) (h : 2 * clk < t) : timerFine clk t c < 1 := by
  have hle : t ≤ t * c := Nat.le_mul_of_pos_right t hc
  rw [timerFine_eq, baudDivisor_lt_iff (by omega)]
  omega

theorem solveTimer_eq_none_of_lt (h : 2 * clk < t) : solveTimer clk t = none :=
  solveTimer_eq_none_iff.mpr (.inr fun _ hc _ => .inl (timerFine_lt_one hc h))

/-- The first coarse divisor has a representable fine one unless its fine divisor is too great, and then the last has
one (R112). -/
theorem timerFine_first_or_last (hclk : clk < 2 ^ 32) (ht : 1 ≤ t) (h : t ≤ 2 * clk) :
    (1 ≤ timerFine clk t 1 ∧ timerFine clk t 1 ≤ 65536) ∨
    (1 ≤ timerFine clk t 65536 ∧ timerFine clk t 65536 ≤ 65536) := by
  simp only [timerFine_eq, ← Nat.lt_succ_iff (n := 65536), le_baudDivisor_iff (Nat.mul_pos ht (Nat.zero_lt_succ _)),
    baudDivisor_lt_iff (Nat.mul_pos ht (Nat.zero_lt_succ _))]
  omega

end

/-- Settles O13: the search keeps the first candidate of least error, and an exact pair is a candidate. -/
theorem solveTimerReturnsTheLeastError : Obligations.SolveTimerReturnsTheLeastError := by
  intro clk t x hx
  have hx := solveTimer_some hx
  have hfreq : x.actualFreq.value = (clk : Rat) / (x.coarse * x.fine) := by
    rw [hx.freq_eq, Ratio.value_mk, Nat.cast_mul]
  have hrel : relativeError clk t (x.coarse * x.fine) = |x.actualFreq.value - t| / t := by
    rw [relativeError_eq hx.target_pos (Nat.mul_pos hx.coarse_pos hx.fine_pos), hfreq, Nat.cast_mul]
  refine ⟨hx.coarse_pos, hx.coarse_le, hx.fine_pos, hx.fine_le, ?_, hfreq, hx.error_value, hrel ▸ hx.error_value,
    hx.error_le, fun c f hc hcle hf => ?_, fun c f hc hcle hf hfle => hx.error_exact hc hcle hf hfle⟩
  · rw [floor_div_mul_add_half, hx.fine_eq]
  · obtain rfl : f = timerFine clk t c := by
      rw [floor_div_mul_add_half] at hf
      exact_mod_cast hf
    exact ⟨rfl, hx.least c hc hcle⟩

/-- Settles O14: for 32-bit inputs the first or the last coarse divisor serves up to twice the clock, and none above. -/
theorem solveTimerHasNoSolutionAboveTwiceTheClock : Obligations.SolveTimerHasNoSolutionAboveTwiceTheClock := by
  refine ⟨fun clk t => ⟨solveTimer_eq_none_iff, fun hclk _ ht => ⟨fun hnone => ?_, solveTimer_eq_none_of_lt⟩⟩, by decide⟩
  by_contra hle
  obtain rfl | hnone := solveTimer_eq_none_iff.mp hnone
  · omega
  · have hfirst := hnone 1 le_rfl (by decide)
    have hlast := hnone 65536 (by decide) le_rfl
    have := timerFine_first_or_last hclk ht (not_lt.mp hle)
    omega

end Sys2Proof.Machine
end

section
/-! PROOFS. The operations of the prescaler solver (R101, R102, R113). -/

namespace Sys2Proof.Machine

section
variable {s : State}

theorem exec_solveb (h : s.foregroundFree) :
    exec .solveb s = .next (s.retAll .solveb (solverImage (solveBaud s.a.q0.toNat s.a.q1.toNat))) := by
  rw [exec, execSolveb, acceptForeground_free h]

theorem exec_solvet (h : s.foregroundFree) :
    exec .solvet s = .next (s.retAll .solvet (solverImage (solveTimer s.a.q0.toNat s.a.q1.toNat))) := by
  rw [exec, execSolvet, acceptForeground_free h]

end

/-- R101's corner cases. -/
theorem solveBaud_corner_cases {clk t : Nat}
    (h : t = 0 ∨ clk = 0 ∨ (clk : Rat) / t < 15.5 ∨ 65535.5 ≤ (clk : Rat) / t) : solveBaud clk t = none := by
  obtain rfl | ht := Nat.eq_zero_or_pos t
  · exact solveBaud_eq_none_iff.mpr (.inl rfl)
  · obtain h0 | rfl | hq := h
    · omega
    · exact solveBaud_eq_none_iff.mpr (.inr (.inl (by rw [baudDivisor_zero_clock]; decide)))
    · exact (solveBaud_eq_none_iff_quotient ht).mpr hq

/-- R102's corner cases. -/
theorem solveTimer_corner_cases {clk t : Nat} (h : t = 0 ∨ 2 * clk < t) : solveTimer clk t = none := by
  obtain rfl | hlt := h
  · exact solveTimer_eq_none_iff.mpr (.inl rfl)
  · exact solveTimer_eq_none_of_lt hlt

/-- Settles O12: each operation writes the solver's image, and every result fits one (`Solution.Fits.image`). -/
theorem solverOperationsWriteTheRegisterImage : Obligations.SolverOperationsWriteTheRegisterImage := by
  refine ⟨by decide, ?_⟩
  rintro s _ _ hs rfl rfl
  have hclk : s.a.q0.toNat < 2 ^ 32 := s.a.q0.isLt
  refine ⟨fun hnone => ?_, solveBaud_corner_cases, fun x hx => ?_, fun hnone => ?_, solveTimer_corner_cases,
    fun x hx => ?_⟩
  · rw [exec_solveb hs, hnone]
    rfl
  · refine ⟨_, exec_solveb hs, ?_⟩
    rw [hx]
    exact (solveBaud_some hx).fits.image hclk (by decide) (by norm_num)
  · rw [exec_solvet hs, hnone]
    rfl
  · refine ⟨_, exec_solvet hs, ?_⟩
    rw [hx]
    exact (solveTimer_some hx).fits.image hclk (by decide) (by norm_num)

end Sys2Proof.Machine
end

section
/-! PROOFS. The transfer operations' label S0 (R121 to R124, R172, R173): what the step that accepts each of them does, and
that SEND and FSEND are one operation under two names. -/

namespace Sys2Proof.Machine

/-! ### SEND and FSEND -/

section
variable {s : State} {i : Unit6} {len : Half} {buf : Word} {f : Instr × OpName × FgOp}

/-- SEND of a unit is a form of sending on it, and FSEND is one on the framing unit (R121, R172). -/
theorem mem_sendForms {p : Params} : f ∈ sendForms p i len buf ↔
    f = (.send (unitNumber i) len, .send, .send i len buf) ∨
      (i = p.frameUnit ∧ f = (.fsend len, .fsend, .fsend len buf)) := by
  unfold sendForms
  split <;> simp_all

/-- Acceptance passes its own state on (R94). -/
theorem acceptForeground_congr {j k : State → Out} (h : j s = k s) : acceptForeground s j = acceptForeground s k := by
  simp only [acceptForeground, h]

/-- Accepting either form runs S0 of SEND, with that form's name and latched operands (R121, R172). -/
theorem exec_sendForm (hf : f ∈ sendForms s.par i len s.a.q0) :
    exec f.1 s = acceptForeground s fun s => sendStart f.2.1 f.2.2 i len s := by
  obtain rfl | ⟨rfl, rfl⟩ := mem_sendForms.mp hf
  · simp only [exec, execSend, unitOf_unitNumber]
    exact acceptForeground_congr rfl
  · simp only [exec, execFsend]
    exact acceptForeground_congr rfl

/-- In progress, either form takes SEND's steps under its own name (R121, R172). -/
theorem foreground_sendForm (hf : f ∈ sendForms s.par i len buf) (hm : s.foregroundMayAct = true)
    (hop : s.fg.op = some f.2.2) : agentStep .foreground s = sendStep f.2.1 i len buf s := by
  refine (foregroundStep_of_op hm hop).trans ?_
  obtain rfl | ⟨rfl, rfl⟩ := mem_sendForms.mp hf <;> rfl

theorem sendStart_empty {name : OpName} {op : FgOp} (hu : (s.uart i).usable = true) :
    sendStart name op i 0#16 s = .next (s.ret name 0#32) := by
  simp [sendStart, hu]

theorem sendStart_polled {name : OpName} {op : FgOp} (hu : (s.uart i).usable = true) (h0 : len ≠ 0#16)
    (hp : len = 1#16 ∨ (s.uart i).dmaTx = false) :
    sendStart name op i len s = .next ((s.startFg op .p1).setK 0#16) := by
  simp [sendStart, hu, h0, hp]

theorem sendStart_dma {name : OpName} {op : FgOp} (hu : (s.uart i).usable = true) (h0 : len ≠ 0#16)
    (h1 : len ≠ 1#16) (hd : (s.uart i).dmaTx = true) : sendStart name op i len s = .next (s.startFg op .d1) := by
  simp [sendStart, hu, h0, h1, hd]

end

/-- Settles O19: both forms run `sendStart`, whose three branches are the three paths. -/
theorem sendStartsOnItsPath : Obligations.SendStartsOnItsPath := by
  intro s i len hfree hu f hf
  rw [exec_sendForm hf, acceptForeground_free hfree]
  refine ⟨?_, sendStart_polled hu, sendStart_dma hu⟩
  rintro rfl
  exact sendStart_empty hu

/-! ### RECV, SENDB, RECVB and FRECV -/

section
variable {s : State} {i : Unit6} {circ : Bool} {len : Half}

theorem exec_recv (hfree : s.foregroundFree) :
    exec (.recv (unitNumber i) circ len) s = recvStart i circ len s := by
  simp only [exec, execRecv, acceptForeground_free hfree, unitOf_unitNumber]

theorem recvStart_empty (hu : (s.uart i).usable = true) : recvStart i circ 0#16 s = .next (s.ret .recv 0#32) := by
  simp [recvStart, hu]

theorem recvStart_polled (hu : (s.uart i).usable = true) (h0 : len ≠ 0#16) (hd : (s.uart i).dmaRx = false) :
    recvStart i circ len s = .next ((s.startFg (.recv i circ len s.a.q0) .p1).setK 0#16) := by
  simp [recvStart, hu, h0, hd]

theorem recvStart_dma (hu : (s.uart i).usable = true) (h0 : len ≠ 0#16) (hd : (s.uart i).dmaRx = true) :
    recvStart i circ len s = .next (s.startFg (.recv i circ len s.a.q0) .d1) := by
  simp [recvStart, hu, h0, hd]

theorem exec_sendb (hfree : s.foregroundFree) (hu : (s.uart i).usable = true) (v : Byte) :
    exec (.sendb (unitNumber i) v) s = .next (s.startFg (.sendb i v) .p1) := by
  simp [exec, execSendb, acceptForeground_free hfree, unitOf_unitNumber, hu]

theorem exec_recvb (hfree : s.foregroundFree) (hu : (s.uart i).usable = true) :
    exec (.recvb (unitNumber i)) s = .next (s.startFg (.recvb i) .p1) := by
  simp [exec, execRecvb, acceptForeground_free hfree, unitOf_unitNumber, hu]

theorem exec_frecv (hfree : s.foregroundFree) :
    exec .frecv s = .next (if s.frame.init then s.startFg (.frecv s.a.q0) .w1 else s.raise .frecv) := by
  cases hi : s.frame.init <;> simp [exec, execFrecv, acceptForeground_free hfree, hi]

end

/-- Settles O20: each operation's S0, by its own lemma. -/
theorem receivesAndByteOperationsStart : Obligations.ReceivesAndByteOperationsStart := by
  intro s i circ len v hfree
  refine ⟨fun hu => ⟨?_, fun h0 hd => ?_, fun h0 hd => ?_, exec_sendb hfree hu v, exec_recvb hfree hu⟩,
    fun hi => ?_, fun hi => ?_⟩
  · exact (exec_recv hfree).trans (recvStart_empty hu)
  · exact (exec_recv hfree).trans (recvStart_polled hu h0 hd)
  · exact (exec_recv hfree).trans (recvStart_dma hu h0 hd)
  · rw [exec_frecv hfree, hi]
    rfl
  · rw [exec_frecv hfree, hi]
    rfl

end Sys2Proof.Machine
end

section
/-! PROOFS. The DMA channels and the receive event (R130 to R138, R196, R197): the two advances written out field by field,
the channels' own steps, the refusal of an overlap, and what a running receive stream keeps. -/

namespace Sys2Proof.Machine

/-! ### One byte moved -/

theorem Half.sub_one_eq_zero_iff (x : Half) : x - 1#16 = 0#16 ↔ x = 1#16 := by
  constructor <;> intro h <;> bv_omega

/-- The transmit stream's advance, field by field (R134). -/
theorem Chan.txAdvance_eq {c : Chan} (ha : c.active = true) : c.txAdvance =
    { c with
      off := c.off + 1#16
      cnt := c.cnt - 1#16
      active := decide (c.cnt ≠ 1#16)
      done := decide (c.cnt = 1#16) || c.done } := by
  by_cases h : c.cnt = 1#16
  · simp [Chan.txAdvance, h]
  · simp [Chan.txAdvance, Half.sub_one_eq_zero_iff, h, ha]

/-- The receive stream's advance, field by field (R133, R137). -/
theorem Chan.rxAdvance_eq {c : Chan} (ha : c.active = true) : c.rxAdvance =
    { c with
      cnt := c.cnt - 1#16
      off := if c.circ = true then BitVec.ofNat 16 ((c.off.toNat + 1) % c.len.toNat) else c.off + 1#16
      active := c.circ || decide (c.cnt ≠ 1#16)
      done := (!c.circ && decide (c.cnt = 1#16)) || c.done } := by
  cases hc : c.circ with
  | true => simp [Chan.rxAdvance, hc, ha]
  | false => rw [Chan.rxAdvance_oneShot hc, Chan.txAdvance_eq ha]; simp [hc]

theorem clearFlag_setFlag_of_clear {sr : BitVec 7} {k : EventKind} (h : flag sr k = false) :
    clearFlag (setFlag sr k) k = sr := by
  refine sr_ext fun j => ?_
  rw [flag_clearFlag, flag_setFlag]
  by_cases hj : j = k
  · simp [hj, h]
  · simp [hj]

/-! ### The channels' own steps -/

section
variable {s : State} {i : Unit6}

theorem Uart.txMoveEnabled_iff {u : Uart} : u.txMoveEnabled = true ↔
    u.dmaTx = true ∧ u.ch.tx.active = true ∧ flag u.sr .txe = true ∧ u.chFault.tx = none := by
  simp only [Uart.txMoveEnabled, Bool.and_eq_true, Bool.not_eq_true', Uart.chStuck_eq_false, PerDir.get_tx, and_assoc]

/-- TxMove of an enabled channel whose next byte's address is backed by memory (R134). -/
theorem txMoveStep_moves {base : Word} (hg : (s.uart i).txMoveEnabled = true) (hsrc : (s.uart i).ch.tx.src = .mem base)
    (hv : memValid s.par (byteAddr base (s.uart i).ch.tx.off) = true) :
    txMoveStep i s = .next (s.setUart i
      (((s.uart i).writeTdr (s.mem.read (byteAddr base (s.uart i).ch.tx.off).toNat)).setCh .tx
        (s.uart i).ch.tx.txAdvance)) := by
  simp only [txMoveStep, hsrc, memRead_valid hv]
  exact if_pos hg

theorem txMoveStep_disabled (hg : (s.uart i).txMoveEnabled ≠ true) : txMoveStep i s = notEnabled (.txMove i) :=
  if_neg hg

/-- DmaDone of a channel that is not stuck and has a completion pending (R135). -/
theorem dmaDoneStep_signals {d : Dir} (hd : ((s.uart i).ch.get d).done = true) (hn : (s.uart i).chFault.get d = none) :
    dmaDoneStep i d s = .next (s.setUart i
      (((s.uart i).setCh d { (s.uart i).ch.get d with done := false }).setSig d true)) := by
  simp [dmaDoneStep, hd, Uart.chStuck_eq_false.mpr hn]

theorem dmaDoneStep_disabled {d : Dir} (hd : ((s.uart i).ch.get d).done = false) :
    dmaDoneStep i d s = notEnabled (.dmaDone i d) := by
  simp [dmaDoneStep, hd]

/-- Settles O29: each step by its guard; TxMove's fields are those of `Chan.txAdvance_eq`. -/
theorem channelStepsMoveBytesAndSignal : Obligations.ChannelStepsMoveBytesAndSignal := by
  intro s i d base
  refine ⟨fun h => txMoveStep_disabled fun hg => ?_, fun hdma ha hf hn hsrc hv => ?_, fun h => ?_,
    dmaDoneStep_signals⟩
  · obtain ⟨hdma, ha, hf, hn⟩ := Uart.txMoveEnabled_iff.mp hg
    obtain h | h | h | h := h
    · exact Bool.false_ne_true (h.symm.trans hdma)
    · exact Bool.false_ne_true (h.symm.trans ha)
    · exact Bool.false_ne_true (h.symm.trans hf)
    · exact h hn
  · refine ⟨clearFlag (clearFlag (s.uart i).sr .txe) .txc, fun k => ?_, ?_⟩
    · simp only [flag_clearFlag]
      cases k <;> simp
    · refine (txMoveStep_moves (Uart.txMoveEnabled_iff.mpr ⟨hdma, ha, hf, hn⟩) hsrc hv).trans ?_
      rw [Chan.txAdvance_eq ha]
      rfl
  · obtain h | h := h
    · exact dmaDoneStep_disabled h
    · exact dmaDoneStep_refused h

/-! ### The receive event -/

/-- RxByte while an untaken byte waits: the new one is dropped (R197). -/
theorem rxByteStep_drops {b : Byte} (hu : (s.uart i).usable = true) (hf : flag (s.uart i).sr .rxr = true) :
    rxByteStep i b s = .next (s.setUart i { s.uart i with rxact := true }) := by
  simp [rxByteStep, hu, hf]

/-- RxByte with no stream to take the byte: it is latched (R197; log entry 8). -/
theorem rxByteStep_latches {b : Byte} (hu : (s.uart i).usable = true) (hf : flag (s.uart i).sr .rxr = false)
    (hn : (s.uart i).dmaRx = false ∨ (s.uart i).ch.rx.active = false ∨ (s.uart i).chFault.rx ≠ none) :
    rxByteStep i b s = .next (s.setUart i
      { s.uart i with rxact := true, rdr := b, sr := setFlag (s.uart i).sr .rxr }) := by
  have ht : ({ s.uart i with rxact := true, rdr := b, sr := setFlag (s.uart i).sr .rxr } : Uart).rxTakes = false := by
    rw [Bool.eq_false_iff, Ne, Uart.rxTakes_iff]
    rintro ⟨hdma, ha, -, hc⟩
    obtain h | h | h := hn
    · exact Bool.false_ne_true (h.symm.trans hdma)
    · exact Bool.false_ne_true (h.symm.trans ha)
    · exact h hc
  simp only [rxByteStep, hu, hf, rxServiceStep, State.uart_setUart_same, rxService_idle ht, State.setUart_setUart]
  rfl

/-- RxByte with an active stream, its address backed by memory: the byte goes to memory in the same step (R133, R197). -/
theorem rxByteStep_stores {b : Byte} {base : Word} (hu : (s.uart i).usable = true)
    (hf : flag (s.uart i).sr .rxr = false) (hdma : (s.uart i).dmaRx = true) (ha : (s.uart i).ch.rx.active = true)
    (hn : (s.uart i).chFault.rx = none) (hdst : (s.uart i).ch.rx.dst = .mem base)
    (hv : memValid s.par (byteAddr base (s.uart i).ch.rx.off) = true) :
    rxByteStep i b s = .next
      { s.setUart i ({ s.uart i with rxact := true, rdr := b }.setCh .rx (s.uart i).ch.rx.rxAdvance) with
        mem := s.mem.write (byteAddr base (s.uart i).ch.rx.off).toNat b } := by
  have ht : ({ s.uart i with rxact := true, rdr := b, sr := setFlag (s.uart i).sr .rxr } : Uart).rxTakes = true :=
    Uart.rxTakes_iff.mpr ⟨hdma, ha, flag_setFlag_same _ _, hn⟩
  simp only [rxByteStep, hu, hf, rxServiceStep, State.uart_setUart_same, State.setUart_par, State.setUart_mem,
    rxService_takes ht hdst hv, State.setUart_setUart, Uart.takeRdr, clearFlag_setFlag_of_clear hf]
  rfl

/-- Settles O32: the three outcomes of RxByte; the stream's fields are those of `Chan.rxAdvance_eq`. -/
theorem rxByteIsLatchedOrDroppedOrStored : Obligations.RxByteIsLatchedOrDroppedOrStored := by
  intro s i b base hu
  refine ⟨rxByteStep_drops hu, fun hf hn => ?_, fun hf hdma ha hn hdst hv => ?_⟩
  · exact ⟨_, flag_setFlag _ _, rxByteStep_latches hu hf hn⟩
  · refine (rxByteStep_stores hu hf hdma ha hn hdst hv).trans ?_
    rw [Chan.rxAdvance_eq ha]
    rfl

end

/-! ### Overlap -/

section
variable {s : State} {i : Unit6} {circ : Bool} {len : Half} {buf : Word}

theorem Chan.outstanding_iff {c : Chan} : c.outstanding = true ↔ c.active = true ∨ c.done = true := by
  rw [Chan.outstanding, Bool.or_eq_true]

/-- Label D1 of SEND and FSEND with the transmit channel in use (R138). -/
theorem sendStep_overlap {name : OpName} (hp : s.fg.phase = .d1) (ho : (s.uart i).ch.tx.outstanding = true) :
    sendStep name i len buf s = .refused (.overlap i .tx) := by
  simp only [sendStep, hp]
  rw [armStep_overlap (d := .tx) ho, Out.andThen_refused, Out.andThen_refused]

/-- Label D1 of RECV with the receive channel in use (R138). -/
theorem recvStep_overlap (hp : s.fg.phase = .d1) (ho : (s.uart i).ch.rx.outstanding = true) :
    recvStep i circ len buf s = .refused (.overlap i .rx) := by
  simp only [recvStep, hp]
  rw [armStep_overlap (d := .rx) ho, Out.andThen_refused, Out.andThen_refused]

/-- While the framing unit's dispatcher is Idle, the stream FINIT has started is active (R178, R181). -/
theorem State.Inv.framing_stream_active (hinv : s.Inv) (hi : s.frame.init = true) (hidle : s.allIdle = true) :
    (s.uart s.par.frameUnit).ch.rx.active = true := by
  rw [hinv.framing.stream hi, s.allIdle_iff.mp hidle]
  rfl

/-- FINIT's configuration at a rate the baud solver solves has a divisor (R151, R171). -/
theorem configDivisor_framing {p : Params} {baud : Word} {x : Solution}
    (hx : solveBaud (p.pclk.get i).toNat baud.toNat = some x) :
    ∃ brr, configDivisor p i (unpackOptions baud framingOptions) = some brr := by
  have hmode : (unpackOptions baud framingOptions).mode ≠ .disabled := by
    change modeOf (framingOptions.extractLsb' 0 3) ≠ .disabled
    decide
  unfold configDivisor
  rw [if_neg hmode]
  split
  · next hnone => cases hx.symm.trans hnone
  · exact ⟨_, rfl⟩

/-- FINIT past every check of INIT, with the framing unit's receive channel in use (R138, R171). -/
theorem execFinit_overlap (hfree : s.foregroundFree) (ho : (s.uart s.par.frameUnit).ch.rx.outstanding = true)
    {u : Uart} (hb : bindUart s.par s.par.frameUnit s.a.q0 framingOptions (s.uart s.par.frameUnit) = .bound u) :
    execFinit s = .refused (.overlap s.par.frameUnit .rx) := by
  obtain ⟨-, -, -, -, brr, -, rfl⟩ := bindUart_bound hb
  rw [execFinit, acceptForeground_free hfree]
  simp only [hb]
  rw [armStep_overlap, Out.andThen_refused, Out.andThen_refused]
  change (((s.setFraming _).uart s.par.frameUnit).ch.get .rx).outstanding = true
  rw [State.setFraming_uart]
  exact ho

/-- Settles O31: Arm's check, at each of the four places that arm a channel. -/
theorem overlappingTransfersAreRefused : Obligations.OverlappingTransfersAreRefused := by
  refine ⟨fun s i circ len buf hm hp => ⟨fun ho hop => ?_, fun ho hop => ?_, fun hinv hi hop => ?_⟩, ?_⟩
  · have ho := Chan.outstanding_iff.mpr ho
    obtain hop | ⟨hop, rfl⟩ := hop
    · exact (foregroundStep_of_op hm hop).trans (sendStep_overlap hp ho)
    · exact (foregroundStep_of_op hm hop).trans (sendStep_overlap hp ho)
  · exact (foregroundStep_of_op hm hop).trans (recvStep_overlap hp (Chan.outstanding_iff.mpr ho))
  · have ha := hinv.framing_stream_active hi (s.foregroundMayAct_iff.mp hm).1
    exact (foregroundStep_of_op hm hop).trans (recvStep_overlap hp (Chan.outstanding_iff.mpr (.inl ha)))
  · rintro s _ x hfree rfl ho hc hsup hx
    have h0 : s.a.q0 ≠ 0#32 := fun h => by simp [h, solveBaud] at hx
    obtain ⟨brr, hbrr⟩ := configDivisor_framing hx
    exact execFinit_overlap hfree (Chan.outstanding_iff.mpr ho)
      (bindUart_ok hc (by decide) h0 (by simpa [modeSupported] using hsup) hbrr)

end

/-! ### What a running receive stream keeps -/

section
variable {s : State} {i : Unit6} {m : Move} {p : Params} {u v : Uart}

/-- The receive service neither completes a circular stream nor changes its mode (R136). -/
theorem Uart.Serviced.circular_keeps (h : u.Serviced p v) (hc : u.ch.rx.circ = true) (hd : u.ch.rx.done = false) :
    v.ch.rx.done = false ∧ v.ch.rx.circ = true := by
  obtain ⟨-, rfl⟩ | ⟨-, rfl⟩ | ⟨-, f, -, rfl⟩ := h
  · exact ⟨hd, hc⟩
  · exact ⟨(Chan.rxAdvance_circular hc).2.trans hd, u.ch.rx.rxAdvance_descriptor.2.2.2.2.2.1.trans hc⟩
  · exact ⟨hd, hc⟩

/-- No move completes a running circular stream or changes its mode (R136). -/
theorem UnitStep.circular_keeps (h : UnitStep s i m v) (hc : (s.uart i).ch.rx.circ = true)
    (ha : (s.uart i).ch.rx.active = true) (hd : (s.uart i).ch.rx.done = false) :
    v.ch.rx.done = false ∧ v.ch.rx.circ = true := by
  cases h with
  | finit _ _ _ ho _ | fgStartRx _ _ ho _ => simp [Chan.outstanding, ha] at ho
  | f4 _ hv => exact hv.circular_keeps hc hd
  | rxLatched _ _ hv => exact hv.circular_keeps hc hd
  | @dmaDone d hg hn =>
    cases d with
    | rx => exact ⟨rfl, hc⟩
    | tx => exact ⟨hd, hc⟩
  | hret | finish | f5 => exact ⟨by simpa using hd, by simpa using hc⟩
  | _ => exact ⟨hd, hc⟩

/-- Settles O30: `UnitStep.circular_keeps`, and `UnitStep.signal` where no completion is pending. -/
theorem circularStreamNeverCompletes : Obligations.CircularStreamNeverCompletes := by
  intro s t m i hc ha hd h
  have hu := agentStep_unit i h
  obtain ⟨hdone, hcirc⟩ := hu.circular_keeps hc ha hd
  refine ⟨hdone, hcirc, fun h0 h1 => ?_⟩
  obtain hk | ⟨-, rfl | ⟨-, hm, hp⟩⟩ | ⟨hclear, -⟩ := hu.signal .rx
  · rw [PerDir.get_rx, PerDir.get_rx, h0, h1] at hk
    cases hk
  · rw [agentStep, dmaDoneStep_disabled (d := .rx) hd] at h
    cases h
  · exact ⟨hm, hp⟩
  · rw [PerDir.get_rx, h1] at hclear
    cases hclear

/-- A receive stream that runs and is not stuck leaves no byte in the data register (R133, R258). -/
def Uart.StreamTakes (u : Uart) : Prop :=
  u.dmaRx = true → u.ch.rx.active = true → u.chFault.rx = none → flag u.sr .rxr = false

/-- The receive service leaves no byte to a stream that runs: it takes the byte, or makes the stream stuck (R133). -/
theorem Uart.Serviced.streamTakes (h : u.Serviced p v) : v.StreamTakes := by
  intro hdma ha hn
  obtain ⟨ht, rfl⟩ | ⟨-, rfl⟩ | ⟨-, f, -, rfl⟩ := h
  · by_contra hf
    rw [Uart.rxTakes_iff.mpr ⟨hdma, ha, by simpa using hf, hn⟩] at ht
    cases ht
  · exact flag_clearFlag_same _ _
  · cases hn

/-- Other status flags change without a byte to leave. -/
theorem Uart.StreamTakes.of_sr (h : u.StreamTakes) {sr : BitVec 7}
    (hf : flag u.sr .rxr = false → flag sr .rxr = false) : ({ u with sr := sr } : Uart).StreamTakes :=
  fun hdma ha hn => hf (h hdma ha hn)

/-- The dispatcher's clear action sets no flag (R219). -/
theorem Uart.StreamTakes.finish (h : u.StreamTakes) (k : EventKind) : (u.finish k).StreamTakes := by
  intro hdma ha hn
  have hf : flag u.sr .rxr = false := h (by simpa [Uart.dmaRx] using hdma) (by simpa using ha) (by simpa using hn)
  rw [Uart.finish_sr, Uart.clearKind_sr]
  split
  · exact hf
  · rw [flag_clearFlag, hf, Bool.and_false]

/-- Every change of a unit keeps `Uart.StreamTakes`: what latches a byte or starts a stream runs the receive service,
INIT clears `rxr`, and nothing else sets `rxr`, enables the DMA or releases a stuck channel. -/
theorem UnitStep.streamTakes (h : UnitStep s i m v) (hs : (s.uart i).StreamTakes) : v.StreamTakes := by
  cases h with
  | finit _ _ _ _ hv | fgStartRx _ _ _ hv | f4 _ hv | rxLatched _ _ hv => exact hv.streamTakes
  | bind => exact fun _ _ _ => flag_srStart _
  | rddr | fgTake => exact fun _ _ _ => flag_clearFlag_same _ _
  | wrdr | fgWrite | txMove => exact hs.of_sr fun hf => by simp [flag_clearFlag, hf]
  | idleEvent | txShift | ctsEvent | breakEvent | parityEvent =>
    exact hs.of_sr fun hf => by simp [flag_setFlag, hf]
  | hret | finish => exact hs.finish _
  | f5 => exact Uart.StreamTakes.finish (u := { s.uart i with masked := false }.setSig .rx true) hs .idle
  | f1 => exact fun _ ha _ => nomatch ha
  | @dmaDone d => cases d <;> exact hs
  | _ => exact hs

/-- Settles O35: `UnitStep.streamTakes`, unit by unit. -/
theorem activeStreamLeavesNoByteWaiting : Obligations.ActiveStreamLeavesNoByteWaiting := by
  intro s t m hs h i
  exact (agentStep_unit i h).streamTakes (hs i)

end

end Sys2Proof.Machine
end

section
/-! PROOFS. What transmitting a list of bytes does to the machine (R39, R121, R199), and the polled path of SEND,
FSEND and SENDB (R121, R123, R127 to R129). -/

namespace Sys2Proof.Machine

/-! ### Runs -/

theorem repeated_succ (n : Nat) (ms : List Move) : repeated (n + 1) ms = repeated n ms ++ ms := by
  simp [repeated, List.replicate_succ']

/-- Accepting an operation that answers a next state, and then a run (R75). -/
theorem presentThen_of_exec {i : Instr} {s s' : State} (h : exec i s = .next s') (ms : List Move) :
    presentThen i ms s = runMoves ms s' := by
  rw [presentThen, h, Out.andThen_next]

theorem State.foregroundFree.mayAct {s : State} (h : s.foregroundFree) : s.foregroundMayAct = true :=
  s.foregroundMayAct_iff.mpr ⟨h.1, h.2.2⟩

section
variable (s : State) (i : Unit6)

@[simp] theorem State.foregroundMayAct_emit (e : Ev) : (s.emit e).foregroundMayAct = s.foregroundMayAct := rfl
@[simp] theorem State.foregroundMayAct_goto (p : FgPhase) : (s.goto p).foregroundMayAct = s.foregroundMayAct := rfl
@[simp] theorem State.foregroundMayAct_setK (k : Half) : (s.setK k).foregroundMayAct = s.foregroundMayAct := rfl
@[simp] theorem State.foregroundMayAct_startFg (op : FgOp) (p : FgPhase) :
    (s.startFg op p).foregroundMayAct = s.foregroundMayAct := rfl

theorem State.goto_self {s : State} {p : FgPhase} (h : s.fg.phase = p) : s.goto p = s := by
  subst h
  rfl

/-- A unit whose dispatcher is kept leaves the foreground as it is (R17). -/
theorem State.foregroundMayAct_setUart {s : State} {i : Unit6} {u : Uart} (h : u.dsp = (s.uart i).dsp) :
    (s.setUart i u).foregroundMayAct = s.foregroundMayAct := by
  rw [State.foregroundMayAct, State.allIdle_setUart s i u (by rw [h])]
  rfl

end

/-! ### Bytes transmitted -/

section
variable {u : Uart} {b c : Byte} {bs : List Byte}

/-- The unit once a byte written to its data register has gone out on the line: both transmit flags are set (R199). -/
def Uart.sent (u : Uart) (b : Byte) : Uart := { u with tdr := b, sr := setFlag (setFlag u.sr .txe) .txc }

theorem Uart.flag_sent (k : EventKind) :
    flag (u.sent b).sr k = (decide (k = .txe ∨ k = .txc) || flag u.sr k) := by
  simp only [Uart.sent, flag_setFlag]
  cases k <;> simp

/-- The line takes the byte that was written, whatever the register held before (R39, R199). -/
theorem Uart.writeTdr_sent : (u.writeTdr b).sent c = u.sent c := by
  have hsr : ((u.writeTdr b).sent c).sr = (u.sent c).sr := sr_ext fun k => by
    rw [Uart.flag_sent, Uart.flag_sent, Uart.writeTdr_sr, flag_clearFlag, flag_clearFlag]
    cases k <;> simp
  exact congrArg (fun sr => ({ u with tdr := c, sr := sr } : Uart)) hsr

theorem Uart.sent_sent : (u.sent b).sent c = u.sent c := by
  have hsr : ((u.sent b).sent c).sr = (u.sent c).sr := sr_ext fun k => by
    rw [Uart.flag_sent, Uart.flag_sent, Uart.flag_sent]
    cases k <;> simp
  exact congrArg (fun sr => ({ u with tdr := c, sr := sr } : Uart)) hsr

/-- The unit after a list of bytes has gone out. -/
def Uart.sentAll (u : Uart) (bs : List Byte) : Uart := bs.foldl Uart.sent u

theorem Uart.sentAll_append (bs cs : List Byte) : u.sentAll (bs ++ cs) = (u.sentAll bs).sentAll cs :=
  List.foldl_append

/-- Only the last byte sent leaves a mark on its unit. -/
theorem Uart.sentAll_concat (bs : List Byte) (b : Byte) : u.sentAll (bs ++ [b]) = u.sent b := by
  induction bs using List.reverseRecOn generalizing b with
  | nil => rfl
  | append_singleton bs c ih =>
    rw [Uart.sentAll_append, ih]
    exact Uart.sent_sent

theorem Uart.sentAll_of_getLast (h : bs.getLast? = some b) : u.sentAll bs = u.sent b := by
  obtain ⟨cs, rfl⟩ := List.getLast?_eq_some_iff.mp h
  exact Uart.sentAll_concat cs b

/-- Sending writes the data register and sets the two transmit flags, and nothing else of the unit. -/
theorem Uart.sentAll_eq (u : Uart) (bs : List Byte) : ∃ tdr sr, u.sentAll bs = { u with tdr := tdr, sr := sr } ∧
    (flag u.sr .txe = true → flag sr .txe = true) := by
  induction bs using List.reverseRecOn with
  | nil => exact ⟨u.tdr, u.sr, rfl, id⟩
  | append_singleton bs b =>
    rw [Uart.sentAll_concat]
    exact ⟨b, _, rfl, fun _ => Uart.flag_sent (u := u) (b := b) .txe⟩

@[simp] theorem Uart.sentAll_usable (u : Uart) (bs : List Byte) : (u.sentAll bs).usable = u.usable := by
  obtain ⟨tdr, sr, h, -⟩ := u.sentAll_eq bs
  rw [h]
  rfl

@[simp] theorem Uart.sentAll_dmaTx (u : Uart) (bs : List Byte) : (u.sentAll bs).dmaTx = u.dmaTx := by
  obtain ⟨tdr, sr, h, -⟩ := u.sentAll_eq bs
  rw [h]
  rfl

@[simp] theorem Uart.sentAll_dsp (u : Uart) (bs : List Byte) : (u.sentAll bs).dsp = u.dsp := by
  obtain ⟨tdr, sr, h, -⟩ := u.sentAll_eq bs
  rw [h]

@[simp] theorem Uart.sentAll_ch (u : Uart) (bs : List Byte) : (u.sentAll bs).ch = u.ch := by
  obtain ⟨tdr, sr, h, -⟩ := u.sentAll_eq bs
  rw [h]

@[simp] theorem Uart.sentAll_chFault (u : Uart) (bs : List Byte) : (u.sentAll bs).chFault = u.chFault := by
  obtain ⟨tdr, sr, h, -⟩ := u.sentAll_eq bs
  rw [h]

theorem Uart.sentAll_setCh (d : Dir) (c : Chan) (bs : List Byte) :
    (u.sentAll bs).setCh d c = (u.setCh d c).sentAll bs := by
  induction bs using List.reverseRecOn with
  | nil => rfl
  | append_singleton bs b => rw [Uart.sentAll_concat, Uart.sentAll_concat]; rfl

end

section
variable {s : State} {i : Unit6} {b : Byte}

/-- The machine after a unit has transmitted a list of bytes: its data register and flags, and the trace (R199). -/
def State.sent (s : State) (i : Unit6) (bs : List Byte) : State :=
  { s with uarts := s.uarts.set i ((s.uart i).sentAll bs), trace := s.trace ++ bs.map (.tx i) }

@[simp] theorem State.sent_uart_same (bs : List Byte) : (s.sent i bs).uart i = (s.uart i).sentAll bs :=
  PerUnit.get_set_same _ _ _

theorem State.sent_uart_ne {j : Unit6} (hj : j ≠ i) (bs : List Byte) : (s.sent i bs).uart j = s.uart j :=
  PerUnit.get_set_ne _ _ hj

@[simp] theorem State.sent_nil : s.sent i [] = s := by
  have h := s.setUart_self i
  simp only [State.sent, List.map_nil, List.append_nil]
  exact h

theorem State.sent_append (bs cs : List Byte) : (s.sent i bs).sent i cs = s.sent i (bs ++ cs) := by
  simp only [State.sent, State.uart, PerUnit.get_set_same, PerUnit.set_set, Uart.sentAll_append, List.map_append,
    List.append_assoc]

@[simp] theorem State.foregroundMayAct_sent (bs : List Byte) :
    (s.sent i bs).foregroundMayAct = s.foregroundMayAct :=
  State.foregroundMayAct_setUart (s := s) (i := i) ((s.uart i).sentAll_dsp bs)

theorem State.sent_writeTdr (c : Byte) : (s.setUart i ((s.uart i).writeTdr c)).sent i [b] = s.sent i [b] := by
  simp only [State.sent, State.uart_setUart_same, State.setUart_uarts, PerUnit.set_set, Uart.sentAll, List.foldl_cons,
    List.foldl_nil, Uart.writeTdr_sent]
  rfl

/-- TxShift sends the byte in the data register (R199). -/
theorem txShift_sends (hu : (s.uart i).usable = true) (hf : flag (s.uart i).sr .txe = false) :
    agentStep (.txShift i) s = .next (s.sent i [(s.uart i).tdr]) := by
  simp only [agentStep, txShiftStep, hu, hf]
  rfl

/-- TxShift right after a write of the data register sends the byte written (R39, R199). -/
theorem txShift_sends_written (hu : (s.uart i).usable = true) (b : Byte) :
    agentStep (.txShift i) (s.setUart i ((s.uart i).writeTdr b)) = .next (s.sent i [b]) := by
  have hf : flag ((s.uart i).writeTdr b).sr .txe = false := by simp [flag_clearFlag]
  have hu' : ((s.uart i).writeTdr b).usable = true := hu
  rw [txShift_sends (by simpa using hu') (by simpa using hf), State.uart_setUart_same, Uart.writeTdr_tdr,
    State.sent_writeTdr]

end

/-! ### The bytes of a buffer -/

/-- The first n bytes of a buffer (R67). -/
def bufferPrefix (m : Memory) (buf : Word) (n : Nat) : List Byte :=
  (List.range n).map fun j => m.read (byteAddr buf (BitVec.ofNat 16 j)).toNat

theorem bufferPrefix_succ (m : Memory) (buf : Word) (n : Nat) :
    bufferPrefix m buf (n + 1) = bufferPrefix m buf n ++ [m.read (byteAddr buf (BitVec.ofNat 16 n)).toNat] := by
  simp [bufferPrefix, List.range_succ]

theorem bufferBytes_eq_prefix (m : Memory) (buf : Word) (len : Half) :
    bufferBytes m buf len = bufferPrefix m buf len.toNat := rfl

theorem bufferBytes_getLast (m : Memory) (buf : Word) {len : Half} (h : len ≠ 0#16) :
    ∃ b, (bufferBytes m buf len).getLast? = some b := by
  refine Option.ne_none_iff_exists'.mp fun hnone => h ?_
  simpa [bufferBytes, BitVec.toNat_eq] using hnone

theorem bufferValid.at {p : Params} {buf : Word} {len : Half} (h : bufferValid p buf len) {n : Nat}
    (hn : n < len.toNat) : memValid p (byteAddr buf (BitVec.ofNat 16 n)) = true := by
  have := len.isLt
  exact h _ (by rwa [BitVec.toNat_ofNat, Nat.mod_eq_of_lt (by omega)])

theorem Half.ofNat_succ (n : Nat) : BitVec.ofNat 16 n + 1#16 = BitVec.ofNat 16 (n + 1) := (BitVec.ofNat_add n 1).symm

theorem Half.toNat_ofNat_of_le {n : Nat} {len : Half} (h : n ≤ len.toNat) : (BitVec.ofNat 16 n).toNat = n := by
  have := len.isLt
  rw [BitVec.toNat_ofNat, Nat.mod_eq_of_lt (by omega)]

/-! ### The polled path of SEND and FSEND -/

section
variable {s : State} {i : Unit6} {len : Half} {buf : Word} {name : OpName} {f : Instr × OpName × FgOp}

/-- P1: byte FG.k of the buffer goes to the data register (R121). -/
theorem sendStep_p1 (hp : s.fg.phase = .p1) (hv : memValid s.par (byteAddr buf s.fg.k) = true) :
    sendStep name i len buf s = .next
      ((s.setUart i ((s.uart i).writeTdr (s.mem.read (byteAddr buf s.fg.k).toNat))).goto .p2) := by
  simp only [sendStep, hp, memRead_valid hv]

/-- P2 with the data register empty (R121). -/
theorem sendStep_p2 (hp : s.fg.phase = .p2) (hf : flag (s.uart i).sr .txe = true) :
    sendStep name i len buf s = .next (s.goto .p3) := by
  simp [sendStep, hp, hf]

/-- P3: on to the next byte, or the end of the operation (R121). -/
theorem sendStep_p3 (hp : s.fg.phase = .p3) : sendStep name i len buf s = .next
    (if (s.fg.k + 1#16).toNat < len.toNat then (s.setK (s.fg.k + 1#16)).goto .p1
      else (s.setK (s.fg.k + 1#16)).endFg name 0#32) := by
  simp only [sendStep, hp, State.setK_fg]
  split <;> rfl

/-- One byte of the polled path: P1, the line's TxShift, P2 and P3 (R121). -/
theorem polledSend_byte (hf : f ∈ sendForms s.par i len buf) (hm : s.foregroundMayAct = true)
    (hu : (s.uart i).usable = true) (hop : s.fg.op = some f.2.2) (hp : s.fg.phase = .p1) {k : Half} (hk : s.fg.k = k)
    (hv : memValid s.par (byteAddr buf k) = true) {b : Byte} (hb : b = s.mem.read (byteAddr buf k).toNat) :
    runMoves [.foreground, .txShift i, .foreground, .foreground] s = .next
      (if (k + 1#16).toNat < len.toNat then ((s.sent i [b]).setK (k + 1#16)).goto .p1
        else (((s.sent i [b]).setK (k + 1#16)).goto .p3).endFg f.2.1 0#32) := by
  subst hk
  have h1 : agentStep .foreground s = .next ((s.setUart i ((s.uart i).writeTdr b)).goto .p2) := by
    rw [hb]
    exact (foreground_sendForm hf hm hop).trans (sendStep_p1 hp hv)
  have h2 : agentStep (.txShift i) ((s.setUart i ((s.uart i).writeTdr b)).goto .p2) =
      .next ((s.sent i [b]).goto .p2) := txShift_sends_written (s := s.goto .p2) hu b
  have h3 : agentStep .foreground ((s.sent i [b]).goto .p2) = .next ((s.sent i [b]).goto .p3) := by
    refine (foreground_sendForm (s := (s.sent i [b]).goto .p2) hf (by simpa using hm) hop).trans
      (sendStep_p2 rfl ?_)
    rw [State.goto_uart, State.sent_uart_same]
    exact Uart.flag_sent .txe
  have h4 := (foreground_sendForm (s := (s.sent i [b]).goto .p3) hf (by simpa using hm) hop).trans (sendStep_p3 rfl)
  simp only [runMoves_cons, h1, h2, h3, h4, Out.andThen_next, runMoves_nil]
  rfl

/-- The polled path after n bytes, the last one not among them (R121). -/
theorem polledSend_bytes (hf : f ∈ sendForms s.par i len buf) (hm : s.foregroundMayAct = true)
    (hu : (s.uart i).usable = true) (hop : s.fg.op = some f.2.2) (hp : s.fg.phase = .p1)
    (hv : bufferValid s.par buf len) {n : Nat} (hn : n < len.toNat) :
    runMoves (repeated n [.foreground, .txShift i, .foreground, .foreground]) (s.setK 0#16) =
      .next ((s.sent i (bufferPrefix s.mem buf n)).setK (BitVec.ofNat 16 n)) := by
  induction n with
  | zero => simp [repeated, bufferPrefix]
  | succ n ih =>
    have hk : (BitVec.ofNat 16 n + 1#16).toNat < len.toNat := by
      rw [Half.ofNat_succ, Half.toNat_ofNat_of_le hn.le]
      exact hn
    have hbyte := polledSend_byte (s := (s.sent i (bufferPrefix s.mem buf n)).setK (BitVec.ofNat 16 n))
      (k := BitVec.ofNat 16 n) (b := s.mem.read (byteAddr buf (BitVec.ofNat 16 n)).toNat) hf
      (by simpa using hm) (by simpa using hu) hop hp rfl (hv.at (by omega)) rfl
    rw [repeated_succ, runMoves_append, ih (by omega), Out.andThen_next, hbyte]
    rw [if_pos hk, Half.ofNat_succ, bufferPrefix_succ, ← State.sent_append]
    refine congrArg _ (State.goto_self ?_)
    exact hp

/-- The whole polled path, from byte 0 to the end of the operation (R121). -/
theorem polledSend_run (hf : f ∈ sendForms s.par i len buf) (hm : s.foregroundMayAct = true)
    (hu : (s.uart i).usable = true) (hop : s.fg.op = some f.2.2) (hp : s.fg.phase = .p1)
    (hv : bufferValid s.par buf len) (h0 : len ≠ 0#16) :
    runMoves (repeated len.toNat [.foreground, .txShift i, .foreground, .foreground]) (s.setK 0#16) =
      .next ((((s.sent i (bufferBytes s.mem buf len)).setK len).goto .p3).endFg f.2.1 0#32) := by
  obtain ⟨n, hn⟩ := Nat.exists_eq_succ_of_ne_zero (n := len.toNat) (by simpa [BitVec.toNat_eq] using h0)
  have hk : BitVec.ofNat 16 n + 1#16 = len := by
    rw [Half.ofNat_succ, ← Nat.succ_eq_add_one, ← hn, BitVec.ofNat_toNat, BitVec.setWidth_eq]
  have hbyte := polledSend_byte (s := (s.sent i (bufferPrefix s.mem buf n)).setK (BitVec.ofNat 16 n))
    (k := BitVec.ofNat 16 n) (b := s.mem.read (byteAddr buf (BitVec.ofNat 16 n)).toNat) hf
    (by simpa using hm) (by simpa using hu) hop hp rfl (hv.at (by omega)) rfl
  rw [bufferBytes_eq_prefix, hn, repeated_succ, runMoves_append, polledSend_bytes hf hm hu hop hp hv (by omega),
    Out.andThen_next, hbyte]
  rw [hk, if_neg (lt_irrefl _), bufferPrefix_succ, ← State.sent_append]
  rfl

end

/-- Settles O21: the polled path is `polledSend_run`, and its unit holds the last byte sent. -/
theorem polledSendTransmitsTheBuffer : Obligations.PolledSendTransmitsTheBuffer := by
  intro s i len hfree hu h0 hpolled hv f hf
  have hexec := (exec_sendForm hf).trans ((acceptForeground_free hfree _).trans (sendStart_polled hu h0 hpolled))
  obtain ⟨b, hb⟩ := bufferBytes_getLast s.mem s.a.q0 h0
  refine ⟨_, b, ((s.uart i).sent b).sr, (presentThen_of_exec hexec _).trans
    (polledSend_run (s := s.startFg f.2.2 .p1) hf hfree.mayAct hu rfl rfl hv h0), rfl, rfl, by simp [State.sent], rfl, rfl,
    rfl, fun j hj => State.sent_uart_ne hj _, hb, ?_, fun k => Uart.flag_sent k⟩
  exact State.sent_uart_same _ |>.trans (Uart.sentAll_of_getLast hb)

/-! ### The polled path triggers nothing -/

section
variable {s t : State} {name : OpName} {op : FgOp} {i : Unit6} {len : Half} {buf : Word} {v : Byte}

/-- What R127 says of a step: no channel changes, no Trigger is emitted, and the foreground is in the polled path of a
send, or in no operation. -/
def State.PolledTo (s t : State) : Prop :=
  (∀ j, (t.uart j).ch = (s.uart j).ch) ∧ (∃ evs, t.trace = s.trace ++ evs ∧ ∀ j d, Ev.trigger j d ∉ evs) ∧
    (t.fg.op = none ∨ t.polledSending)

/-- A step that emits nothing and stays in the polled path. -/
theorem State.PolledTo.silent (hch : ∀ j, (t.uart j).ch = (s.uart j).ch) (htr : t.trace = s.trace)
    (hp : t.polledSending) : s.PolledTo t :=
  ⟨hch, ⟨[], by rw [htr, List.append_nil], fun _ _ => List.not_mem_nil⟩, .inr hp⟩

/-- A step that ends the operation. -/
theorem State.PolledTo.ret {q : Quad} (hch : ∀ j, (t.uart j).ch = (s.uart j).ch)
    (htr : t.trace = s.trace ++ [.ret name q]) (hop : t.fg.op = none) : s.PolledTo t :=
  ⟨hch, ⟨_, htr, fun _ _ => by simp⟩, .inl hop⟩

theorem State.setUart_ch {u : Uart} (h : u.ch = (s.uart i).ch) (j : Unit6) :
    ((s.setUart i u).uart j).ch = (s.uart j).ch := by
  rw [State.uart_setUart]
  split
  · next hj => rw [h, hj]
  · rfl

/-- S0 of SEND and FSEND, where it does not choose the DMA path (R121, R127). -/
theorem sendStart_polledTo (hfree : s.foregroundFree) (hop : op = .send i len buf ∨ op = .fsend len buf)
    (hlen : len.toNat ≤ 1 ∨ (s.uart i).dmaTx = false) (h : sendStart name op i len s = .next t) : s.PolledTo t := by
  simp only [sendStart] at h
  split_ifs at h with hu h0 hpolled
  · cases h; exact .ret (fun _ => rfl) rfl hfree.2.1
  · cases h; exact .ret (fun _ => rfl) rfl hfree.2.1
  · cases h
    refine .silent (fun _ => rfl) rfl ⟨?_, .inl rfl⟩
    obtain rfl | rfl := hop
    · exact .inl ⟨_, _, _, rfl⟩
    · exact .inr (.inl ⟨_, _, rfl⟩)
  · simp only [Bool.or_eq_true, decide_eq_true_eq, Bool.not_eq_true', not_or, Bool.not_eq_false] at hpolled
    obtain hlen | hlen := hlen
    · bv_omega
    · exact (Bool.false_ne_true (hlen.symm.trans hpolled.2)).elim

/-- The labels P1 to P3 of SEND and FSEND (R121, R127). -/
theorem sendStep_polledTo (hs : s.polledSending) (h : sendStep name i len buf s = .next t) : s.PolledTo t := by
  obtain ⟨hop, hp⟩ := hs
  obtain hp1 | hp2 | hp3 := hp
  · simp only [sendStep, hp1] at h
    split at h <;> cases h
    · exact .silent (fun _ => rfl) rfl ⟨hop, .inl hp1⟩
    · exact .silent (State.setUart_ch rfl) rfl ⟨hop, .inr (.inl rfl)⟩
  · simp only [sendStep, hp2] at h
    split at h <;> cases h
    · exact .silent (fun _ => rfl) rfl ⟨hop, .inr (.inr rfl)⟩
    · exact .silent (fun _ => rfl) rfl ⟨hop, .inr (.inl hp2)⟩
  · rw [sendStep_p3 hp3] at h
    split at h <;> cases h
    · exact .silent (fun _ => rfl) rfl ⟨hop, .inl rfl⟩
    · exact .ret (fun _ => rfl) rfl rfl

/-- The labels P1 to P3 of SENDB (R123, R127). -/
theorem sendbStep_polledTo (hs : s.polledSending) (h : sendbStep i v s = .next t) : s.PolledTo t := by
  obtain ⟨hop, hp⟩ := hs
  obtain hp1 | hp2 | hp3 := hp
  · simp only [sendbStep, hp1] at h
    cases h
    exact .silent (State.setUart_ch rfl) rfl ⟨hop, .inr (.inl rfl)⟩
  · simp only [sendbStep, hp2] at h
    split at h <;> cases h
    · exact .silent (fun _ => rfl) rfl ⟨hop, .inr (.inr rfl)⟩
    · exact .silent (fun _ => rfl) rfl ⟨hop, .inr (.inl hp2)⟩
  · simp only [sendbStep, hp3] at h
    cases h
    exact .ret (fun _ => rfl) rfl rfl

/-- Accepting SENDB (R123, R127). -/
theorem execSendb_polledTo {n : BitVec 4} (h : execSendb n v s = .next t) : s.PolledTo t := by
  obtain ⟨hfree, h⟩ := acceptForeground_next h
  split at h
  · cases h; exact .ret (fun _ => rfl) rfl hfree.2.1
  · split at h <;> cases h
    · exact .ret (fun _ => rfl) rfl hfree.2.1
    · exact .silent (fun _ => rfl) rfl ⟨.inr (.inr ⟨_, _, rfl⟩), .inl rfl⟩

end

/-- Settles O23: S0 by `sendStart_polledTo` and `execSendb_polledTo`, the later labels by the operation in progress. -/
theorem noTriggerOnThePolledSendPath : Obligations.NoTriggerOnThePolledSendPath := by
  refine ⟨fun s t i len v h => ?_, fun s t hs h => ?_⟩
  · obtain ⟨f, hf, hlen, h⟩ | h := h
    · rw [exec_sendForm hf] at h
      obtain ⟨hfree, h⟩ := acceptForeground_next h
      refine sendStart_polledTo (buf := s.a.q0) hfree ?_ hlen h
      obtain rfl | ⟨-, rfl⟩ := mem_sendForms.mp hf
      · exact .inl rfl
      · exact .inr rfl
    · exact execSendb_polledTo h
  · have hm : s.foregroundMayAct = true := by
      by_contra hm
      rw [agentStep, foregroundStep_refused hm] at h
      cases h
    obtain ⟨i, len, buf, hop⟩ | ⟨len, buf, hop⟩ | ⟨i, v, hop⟩ := hs.1 <;>
      rw [agentStep, foregroundStep_of_op hm hop] at h
    · exact sendStep_polledTo hs h
    · exact sendStep_polledTo hs h
    · exact sendbStep_polledTo hs h

end Sys2Proof.Machine
end

section
/-! PROOFS. The DMA path of SEND and FSEND (R121, R129 to R131, R134, R135): a one-shot channel followed byte by byte, the
completion both DMA operations end with, and the whole run. -/

namespace Sys2Proof.Machine

/-! ### A one-shot transfer, byte by byte -/

section
variable {c : Chan} {n : Nat}

/-- A one-shot channel that has moved n of its bytes, the completion pending after the last (R133, R134). -/
def Chan.moved (c : Chan) (n : Nat) : Chan :=
  { c with
    cnt := c.len - BitVec.ofNat 16 n
    off := BitVec.ofNat 16 n
    active := decide (n < c.len.toNat)
    done := decide (n = c.len.toNat) }

theorem Chan.moved_txAdvance (hn : n < c.len.toNat) : (c.moved n).txAdvance = c.moved (n + 1) := by
  have hk : (BitVec.ofNat 16 n).toNat = n := Half.toNat_ofNat_of_le hn.le
  have hlast : c.len - BitVec.ofNat 16 n = 1#16 ↔ n + 1 = c.len.toNat := by
    constructor <;> intro h <;> bv_omega
  have hcnt : c.len - BitVec.ofNat 16 n - 1#16 = c.len - BitVec.ofNat 16 (n + 1) := by
    rw [← Half.ofNat_succ]
    bv_omega
  rw [Chan.txAdvance_eq (by simpa [Chan.moved] using hn)]
  simp only [Chan.moved, hcnt, Half.ofNat_succ, ne_eq, hlast, Chan.mk.injEq, true_and]
  rw [decide_eq_decide, decide_eq_false hn.ne, Bool.or_false]
  exact ⟨by omega, rfl⟩

theorem Chan.moved_rxAdvance (hc : c.circ = false) (hn : n < c.len.toNat) :
    (c.moved n).rxAdvance = c.moved (n + 1) :=
  (Chan.rxAdvance_oneShot (c := c.moved n) hc).trans (Chan.moved_txAdvance hn)

/-- A channel just armed and triggered has moved no byte (R130, R131). -/
theorem Chan.arm_eq_moved (c : Chan) (dir : XferDir) (src dst : Endpoint) {len : Half} (circ : Bool) (prio : BitVec 2)
    (h0 : len ≠ 0#16) :
    { c.arm dir src dst len circ prio with active := true } = (c.arm dir src dst len circ prio).moved 0 := by
  have hpos : 0 < len.toNat := by bv_omega
  simp [Chan.moved, Chan.arm, hpos, hpos.ne]

/-- A one-shot channel past its last byte and its callback (R135): stopped, at the end of its buffer. -/
theorem Chan.moved_len_callback (c : Chan) : { c.moved c.len.toNat with done := false } =
    { c with cnt := 0#16, off := c.len, active := false, done := false } := by
  simp [Chan.moved]

end

/-! ### A channel replaced -/

section
variable {s : State} {i : Unit6} {d : Dir} {c c' : Chan}

/-- The machine with one channel replaced. -/
def State.withCh (s : State) (i : Unit6) (d : Dir) (c : Chan) : State := s.setUart i ((s.uart i).setCh d c)

@[simp] theorem State.withCh_uart_same : (s.withCh i d c).uart i = (s.uart i).setCh d c :=
  State.uart_setUart_same _ _ _

theorem State.withCh_withCh : (s.withCh i d c).withCh i d c' = s.withCh i d c' := by
  have h : ((s.uart i).setCh d c).setCh d c' = (s.uart i).setCh d c' := by cases d <;> rfl
  rw [State.withCh, State.withCh_uart_same, h]
  exact State.setUart_setUart _ _ _ _

theorem State.sent_withCh (bs : List Byte) : (s.sent i bs).withCh i d c = (s.withCh i d c).sent i bs := by
  rw [State.withCh, State.sent_uart_same, Uart.sentAll_setCh]
  simp only [State.sent, State.withCh, State.setUart, State.uart, PerUnit.get_set_same, PerUnit.set_set]

@[simp] theorem State.foregroundMayAct_withCh : (s.withCh i d c).foregroundMayAct = s.foregroundMayAct :=
  State.foregroundMayAct_setUart rfl

end

/-! ### Completion -/

/-- The end of a DMA transfer: the callback, then the labels D2 and D3 of the operation `op` that waits for the signal
(R121, R122, R135). -/
theorem dma_completes {s : State} {i : Unit6} {d : Dir} {op : FgOp} {name : OpName} (hm : s.foregroundMayAct = true)
    (hop : s.fg.op = some op) (hp : s.fg.phase = .d2) (hdone : ((s.uart i).ch.get d).done = true)
    (hn : (s.uart i).chFault.get d = none)
    (hd2 : ∀ t : State, t.par = s.par → t.fg.phase = .d2 → (t.uart i).sig.get d = true →
      op.step t = .next (t.goto .d3))
    (hd3 : ∀ t : State, t.par = s.par → t.fg.phase = .d3 →
      op.step t = .next ((t.setUart i ((t.uart i).setSig d false)).endFg name 0#32)) :
    runMoves [.dmaDone i d, .foreground, .foreground] s = .next
      (((s.setUart i (((s.uart i).setCh d { (s.uart i).ch.get d with done := false }).setSig d false)).goto
        .d3).endFg name 0#32) := by
  obtain ⟨u, hu⟩ : ∃ u, u = (s.uart i).setCh d { (s.uart i).ch.get d with done := false } := ⟨_, rfl⟩
  obtain ⟨x, hx⟩ : ∃ x, x = s.setUart i (u.setSig d true) := ⟨_, rfl⟩
  have hxu : x.uart i = u.setSig d true := by rw [hx, State.uart_setUart_same]
  have hxm : x.foregroundMayAct = true := by
    rw [hx, State.foregroundMayAct_setUart (by rw [hu]; rfl), hm]
  have hxop : x.fg.op = some op := by rw [hx, State.setUart_fg, hop]
  have hset : ∀ b, (u.setSig d true).setSig d b = u.setSig d b := by cases d <;> exact fun _ => rfl
  have h1 : agentStep (.dmaDone i d) s = .next x := by
    rw [hx, hu]
    exact dmaDoneStep_signals hdone hn
  have h2 : agentStep .foreground x = .next (x.goto .d3) := by
    refine (foregroundStep_of_op hxm hxop).trans (hd2 x (by rw [hx]; rfl) (by rw [hx]; exact hp) ?_)
    rw [hxu, Uart.setSig_sig, PerDir.get_set, if_pos rfl]
  have h3 : agentStep .foreground (x.goto .d3) = .next (((x.goto .d3).setUart i (u.setSig d false)).endFg name 0#32) := by
    rw [← hset false, ← hxu]
    exact (foregroundStep_of_op (s := x.goto .d3) hxm hxop).trans (hd3 (x.goto .d3) (by rw [hx]; rfl) rfl)
  have hend : (x.goto .d3).setUart i (u.setSig d false) = (s.setUart i (u.setSig d false)).goto .d3 := by
    rw [hx]
    exact State.setUart_setUart (s.goto .d3) i _ _
  rw [runMoves_cons, h1, Out.andThen_next, runMoves_cons, h2, Out.andThen_next, runMoves_cons, h3, Out.andThen_next,
    runMoves_nil, hend, hu]

/-! ### The DMA path of SEND and FSEND -/

section
variable {s : State} {i : Unit6} {len : Half} {buf : Word} {name : OpName} {c : Chan} {f : Instr × OpName × FgOp}

/-- D1 of SEND and FSEND with the channel free (R121, R130, R131). -/
theorem sendStep_d1 (hp : s.fg.phase = .d1) (h0 : len ≠ 0#16) (ho : (s.uart i).ch.tx.outstanding = false) :
    sendStep name i len buf s = .next (((s.withCh i .tx (((s.uart i).ch.tx.arm .memToPeriph (.mem buf) (.dr i) len
      false s.par.prioTx).moved 0)).emit (.trigger i .tx)).goto .d2) := by
  have ha : (s.uart i).ch.tx.active = false := by simp_all [Chan.outstanding]
  simp only [sendStep, hp]
  rw [armStep_free (d := .tx) ho, Out.andThen_next, triggerStep_tx_free (by simpa using ha), Out.andThen_next,
    State.uart_setUart_same, State.setUart_setUart, ← Chan.arm_eq_moved _ _ _ _ _ _ h0]
  rfl

theorem sendStep_d2 (hp : s.fg.phase = .d2) (hs : (s.uart i).sig.tx = true) :
    sendStep name i len buf s = .next (s.goto .d3) := by
  simp [sendStep, hp, hs]

theorem sendStep_d3 (hp : s.fg.phase = .d3) :
    sendStep name i len buf s = .next ((s.setUart i ((s.uart i).setSig .tx false)).endFg name 0#32) := by
  simp [sendStep, hp]

/-- The end of SEND and FSEND by DMA (R121, R135). -/
theorem dmaSend_completes (hf : f ∈ sendForms s.par i len buf) (hm : s.foregroundMayAct = true)
    (hop : s.fg.op = some f.2.2) (hp : s.fg.phase = .d2) (hdone : (s.uart i).ch.tx.done = true)
    (hn : (s.uart i).chFault.tx = none) :
    runMoves [.dmaDone i .tx, .foreground, .foreground] s = .next
      (((s.setUart i (((s.uart i).setCh .tx { (s.uart i).ch.tx with done := false }).setSig .tx false)).goto
        .d3).endFg f.2.1 0#32) := by
  have hstep : ∀ t : State, t.par = s.par → f.2.2.step t = sendStep f.2.1 i len buf t := by
    intro t ht
    obtain rfl | ⟨rfl, rfl⟩ := mem_sendForms.mp hf
    · rfl
    · rw [← ht]
      rfl
  exact dma_completes hm hop hp hdone hn (fun t ht hp hs => (hstep t ht).trans (sendStep_d2 hp hs))
    fun t ht hp => (hstep t ht).trans (sendStep_d3 hp)

/-- A byte still waiting in the data register goes out first (R199). -/
theorem txShift_waiting (hu : (s.uart i).usable = true) {w : List Byte}
    (hw : w = if !flag (s.uart i).sr .txe then [(s.uart i).tdr] else []) :
    runMoves (if !flag (s.uart i).sr .txe then [.txShift i] else []) s = .next (s.sent i w) ∧
      flag ((s.uart i).sentAll w).sr .txe = true := by
  subst hw
  cases hf : flag (s.uart i).sr .txe with
  | true => simp [hf, Uart.sentAll]
  | false =>
    simp only [Bool.not_false, if_true, runMoves_cons, txShift_sends hu hf, Out.andThen_next, runMoves_nil, true_and]
    exact Uart.flag_sent .txe

/-- One byte of the DMA path: the channel's TxMove and the line's TxShift (R134, R199). -/
theorem dmaSend_byte (hu : (s.uart i).usable = true) (hg : (s.uart i).txMoveEnabled = true)
    (hc : (s.uart i).ch.tx = c) (hsrc : c.src = .mem buf) (hv : memValid s.par (byteAddr buf c.off) = true) :
    runMoves [.txMove i, .txShift i] s = .next
      ((s.withCh i .tx c.txAdvance).sent i [s.mem.read (byteAddr buf c.off).toNat]) := by
  subst hc
  have h1 : agentStep (.txMove i) s = _ := txMoveStep_moves hg hsrc hv
  have h2 := txShift_sends_written (s := s.withCh i .tx (s.uart i).ch.tx.txAdvance) (i := i)
    (by rw [State.withCh_uart_same]; exact hu) (s.mem.read (byteAddr buf (s.uart i).ch.tx.off).toNat)
  rw [State.withCh_uart_same, State.withCh, State.setUart_setUart] at h2
  rw [runMoves_cons, h1, Out.andThen_next, runMoves_cons]
  exact congrArg (fun o => Out.andThen o (runMoves [])) h2

/-- The DMA path after n bytes, one after the other (R134). -/
theorem dmaSend_bytes (hu : (s.uart i).usable = true) (hdma : (s.uart i).dmaTx = true)
    (htxe : flag (s.uart i).sr .txe = true) (hn : (s.uart i).chFault.tx = none) (hsrc : c.src = .mem buf)
    (hlen : c.len = len) (hv : bufferValid s.par buf len) {n : Nat} (hle : n ≤ len.toNat) :
    runMoves (repeated n [.txMove i, .txShift i]) (s.withCh i .tx (c.moved 0)) =
      .next ((s.withCh i .tx (c.moved n)).sent i (bufferPrefix s.mem buf n)) := by
  induction n with
  | zero => simp [repeated, bufferPrefix]
  | succ n ih =>
    subst hlen
    have huart : ((s.withCh i .tx (c.moved n)).sent i (bufferPrefix s.mem buf n)).uart i =
        ((s.uart i).setCh .tx (c.moved n)).sentAll (bufferPrefix s.mem buf n) := by
      rw [State.sent_uart_same, State.withCh_uart_same]
    have hflag : flag (((s.uart i).setCh .tx (c.moved n)).sentAll (bufferPrefix s.mem buf n)).sr .txe = true := by
      obtain ⟨tdr, sr, h, hkeep⟩ := ((s.uart i).setCh .tx (c.moved n)).sentAll_eq (bufferPrefix s.mem buf n)
      rw [h]
      exact hkeep htxe
    have hbyte := dmaSend_byte (s := (s.withCh i .tx (c.moved n)).sent i (bufferPrefix s.mem buf n)) (i := i)
      (c := c.moved n) (buf := buf) (by rw [huart, Uart.sentAll_usable]; exact hu)
      (by
        rw [huart, Uart.txMoveEnabled_iff, Uart.sentAll_dmaTx, Uart.sentAll_ch, Uart.sentAll_chFault]
        exact ⟨hdma, decide_eq_true (by omega), hflag, hn⟩)
      (by rw [huart, Uart.sentAll_ch]; rfl) hsrc (hv.at (by omega))
    rw [repeated_succ, runMoves_append, ih (by omega), Out.andThen_next, hbyte, Chan.moved_txAdvance (by omega),
      State.sent_withCh, State.withCh_withCh, State.sent_append, bufferPrefix_succ]
    rfl

end

/-- The machine during a DMA send on a unit: triggered, its channel as given, and a list of bytes sent since. -/
def State.dmaSending (s : State) (i : Unit6) (c : Chan) (bs : List Byte) : State :=
  (((s.emit (.trigger i .tx)).goto .d2).withCh i .tx c).sent i bs

theorem State.dmaSending_uart (s : State) (i : Unit6) (c : Chan) (bs : List Byte) :
    (s.dmaSending i c bs).uart i = ((s.uart i).setCh .tx c).sentAll bs := by
  rw [State.dmaSending, State.sent_uart_same, State.withCh_uart_same]
  rfl

theorem State.dmaSending_uart_ne {s : State} {i j : Unit6} (hj : j ≠ i) (c : Chan) (bs : List Byte) :
    (s.dmaSending i c bs).uart j = s.uart j :=
  (State.sent_uart_ne hj bs).trans (State.uart_setUart_ne _ _ hj)

/-- The whole DMA path, from its label D1 (R121, R129): the start, a byte `w` still waiting, the bytes of the buffer and
the completion. -/
theorem dmaSend_run {s e : State} {i : Unit6} {len : Half} {buf : Word} {f : Instr × OpName × FgOp} {c : Chan}
    {w : List Byte} (hf : f ∈ sendForms s.par i len buf) (hm : s.foregroundMayAct = true) (hop : s.fg.op = some f.2.2)
    (hp : s.fg.phase = .d1) (hu : (s.uart i).usable = true) (h0 : len ≠ 0#16) (hdma : (s.uart i).dmaTx = true)
    (hv : bufferValid s.par buf len) (ho : (s.uart i).ch.tx.outstanding = false) (hn : (s.uart i).chFault.tx = none)
    (hc : c = (s.uart i).ch.tx.arm .memToPeriph (.mem buf) (.dr i) len false s.par.prioTx)
    (hw : w = if !flag (s.uart i).sr .txe then [(s.uart i).tdr] else [])
    (he : e = s.dmaSending i (c.moved len.toNat) (w ++ bufferBytes s.mem buf len)) :
    runMoves (.foreground :: (if !flag (s.uart i).sr .txe then [.txShift i] else []) ++
        repeated len.toNat [.txMove i, .txShift i] ++ [.dmaDone i .tx, .foreground, .foreground]) s =
      .next (((e.setUart i (((e.uart i).setCh .tx { (e.uart i).ch.tx with done := false }).setSig .tx false)).goto
        .d3).endFg f.2.1 0#32) := by
  have hclen : c.len = len := by rw [hc]; rfl
  have hstart : agentStep .foreground s = .next (s.dmaSending i (c.moved 0) []) := by
    refine (foreground_sendForm hf hm hop).trans ((sendStep_d1 hp h0 ho).trans ?_)
    rw [State.dmaSending, State.sent_nil, hc]
    rfl
  have htxe : flag ((s.uart i).sentAll w).sr .txe = true := (txShift_waiting hu hw).2
  have hwait : runMoves (if !flag (s.uart i).sr .txe then [.txShift i] else []) (s.dmaSending i (c.moved 0) []) =
      .next (s.dmaSending i (c.moved 0) w) := by
    have h := (txShift_waiting (s := s.dmaSending i (c.moved 0) []) (i := i) (w := w)
      (by rw [State.dmaSending_uart]; exact hu) (by rw [State.dmaSending_uart]; exact hw)).1
    rw [State.dmaSending_uart] at h
    exact h.trans (congrArg _ (State.sent_append [] w))
  have hbytes : runMoves (repeated len.toNat [.txMove i, .txShift i]) (s.dmaSending i (c.moved 0) w) = .next e := by
    have h := dmaSend_bytes (s := ((s.emit (.trigger i .tx)).goto .d2).sent i w) (i := i) (c := c) (buf := buf)
      (len := len) (n := len.toNat) (by rw [State.sent_uart_same, Uart.sentAll_usable]; exact hu)
      (by rw [State.sent_uart_same, Uart.sentAll_dmaTx]; exact hdma) (by rw [State.sent_uart_same]; exact htxe)
      (by rw [State.sent_uart_same, Uart.sentAll_chFault]; exact hn) (by rw [hc]; rfl) hclen hv le_rfl
    rw [State.sent_withCh, State.sent_withCh, State.sent_append] at h
    exact h.trans (congrArg _ he.symm)
  have hend := dmaSend_completes (s := e) (len := len) (buf := buf) (f := f) (by rw [he]; exact hf)
    (by rw [he]; simpa [State.dmaSending] using hm) (by rw [he]; exact hop) (by rw [he]; rfl)
    (by rw [he, State.dmaSending_uart, Uart.sentAll_ch]; simp [Chan.moved, hclen])
    (by rw [he, State.dmaSending_uart, Uart.sentAll_chFault]; exact hn)
  rw [runMoves_append, runMoves_append, runMoves_cons, hstart, Out.andThen_next, hwait, Out.andThen_next, hbytes,
    Out.andThen_next, hend]

/-- Settles O22: the start, a waiting byte, the bytes of the buffer (`dmaSend_bytes`) and the completion. -/
theorem dmaSendTransmitsTheBuffer : Obligations.DmaSendTransmitsTheBuffer := by
  rintro s i len _ hfree hu h2 hdma hv ha hd hn rfl f hf
  have h0 : len ≠ 0#16 := by bv_omega
  have hexec := (exec_sendForm hf).trans ((acceptForeground_free hfree _).trans
    (sendStart_dma hu h0 (by bv_omega) hdma))
  obtain ⟨b, hb⟩ := bufferBytes_getLast s.mem s.a.q0 h0
  have ho : (s.uart i).ch.tx.outstanding = false := by simp [Chan.outstanding, ha, hd]
  obtain ⟨w, hw⟩ : ∃ w, w = if !flag (s.uart i).sr .txe then [(s.uart i).tdr] else [] := ⟨_, rfl⟩
  obtain ⟨c, hc⟩ : ∃ c, c = (s.uart i).ch.tx.arm .memToPeriph (.mem s.a.q0) (.dr i) len false s.par.prioTx := ⟨_, rfl⟩
  obtain ⟨e, he⟩ : ∃ e, e = (s.startFg f.2.2 .d1).dmaSending i (c.moved len.toNat) (w ++ bufferBytes s.mem s.a.q0 len) :=
    ⟨_, rfl⟩
  have hrun := dmaSend_run (s := s.startFg f.2.2 .d1) hf hfree.mayAct rfl rfl hu h0 hdma hv ho hn hc hw he
  have heu : e.uart i = ((s.uart i).setCh .tx (c.moved len.toNat)).sent b := by
    rw [he, State.dmaSending_uart, Uart.sentAll_of_getLast (b := b) (by rw [List.getLast?_append, hb]; rfl)]
    rfl
  have hch : ({ (e.uart i).ch.tx with done := false } : Chan) =
      ⟨.memToPeriph, 0#2, .mem s.a.q0, .dr i, len, false, s.par.prioTx, 0#16, len, false, false⟩ := by
    rw [heu, hc]
    exact Chan.moved_len_callback _
  refine ⟨_, b, ((s.uart i).sent b).sr, (presentThen_of_exec hexec _).trans hrun, ?_, rfl, ?_, ?_, ?_, ?_,
    fun j hj => ?_, hb, ?_, fun k => Uart.flag_sent k⟩
  · rw [State.endFg_r, State.goto_r, State.setUart_r, he]
    rfl
  · rw [State.endFg_trace, State.endFg_r, State.goto_trace, State.setUart_trace, he, hw]
    change s.trace ++ [.trigger i .tx] ++ (_ ++ bufferBytes s.mem s.a.q0 len).map (Ev.tx i) ++ [_] = _
    rw [List.map_append, ← List.append_assoc, apply_ite (List.map (Ev.tx i))]
    rfl
  · rw [State.endFg_mem, State.goto_mem, State.setUart_mem, he]
    rfl
  · rw [State.endFg_frame, State.goto_frame, State.setUart_frame, he]
    rfl
  · rw [State.endFg_a, State.goto_a, State.setUart_a, he]
    rfl
  · rw [State.endFg_uart, State.goto_uart, State.uart_setUart_ne _ _ hj, he]
    exact State.dmaSending_uart_ne hj _ _
  · rw [State.endFg_uart, State.goto_uart, State.uart_setUart_same, hch, heu]
    rfl

end Sys2Proof.Machine
end

section
/-! PROOFS. Receiving (R122, R124, R128, R133): a buffer filled byte by byte, the polled path of RECV, its DMA path with
the trigger that takes a waiting byte, and the byte operations SENDB and RECVB. -/

namespace Sys2Proof.Machine

/-! ### A buffer filled byte by byte -/

section
variable {m m' : Memory} {buf : Word} {bs : List Byte}

theorem byteAddr_inj {j k : Half} : byteAddr buf j = byteAddr buf k ↔ j = k := by
  refine ⟨fun h => ?_, fun h => by rw [h]⟩
  unfold byteAddr at h
  bv_omega

/-- m' is m with a list of bytes stored at the start of a buffer, and nothing else changed (R62, R67). -/
structure Memory.Filled (m m' : Memory) (buf : Word) (bs : List Byte) : Prop where
  wf      : m'.wf
  holds   : holdsBytes m' buf bs
  outside : sameOutside m m' buf bs.length

theorem Memory.Filled.nil (h : m.wf) (buf : Word) : m.Filled m buf [] :=
  ⟨h, fun _ hj => absurd hj (Nat.not_lt_zero _), fun _ _ => rfl⟩

/-- The next byte of the buffer stored. -/
theorem Memory.Filled.concat (h : m.Filled m' buf bs) (hlen : bs.length < 2 ^ 16) (b : Byte) :
    m.Filled (m'.write (byteAddr buf (BitVec.ofNat 16 bs.length)).toNat b) buf (bs ++ [b]) where
  wf := Memory.wf_write h.wf (byteAddr buf _).isLt b
  holds j hj := by
    rw [List.length_append, List.length_singleton] at hj
    by_cases hjl : j = bs.length
    · subst hjl
      rw [Memory.read_write_same h.wf, List.getElem_concat_length rfl]
    · have hlt : j < bs.length := by omega
      rw [Memory.read_write_ne h.wf, h.holds j hlt, List.getElem_append_left hlt]
      rw [Ne, ← BitVec.toNat_eq, byteAddr_inj, BitVec.toNat_eq, BitVec.toNat_ofNat, BitVec.toNat_ofNat]
      omega
  outside a ha := by
    rw [List.length_append, List.length_singleton] at ha
    rw [Memory.read_write_ne h.wf, h.outside a fun j hj => ha j (by omega)]
    rw [Ne, ← BitVec.toNat_eq]
    exact ha bs.length (by omega)

end

theorem clearFlag_setFlag_same (sr : BitVec 7) (k : EventKind) :
    clearFlag (setFlag sr k) k = clearFlag sr k := by
  refine sr_ext fun j => ?_
  rw [flag_clearFlag, flag_clearFlag, flag_setFlag]
  by_cases hj : j = k <;> simp [hj]

theorem clearFlag_clearFlag_same (sr : BitVec 7) (k : EventKind) :
    clearFlag (clearFlag sr k) k = clearFlag sr k := by
  refine sr_ext fun j => ?_
  rw [flag_clearFlag, flag_clearFlag, ← Bool.and_assoc, Bool.and_self]

/-! ### The polled path of RECV -/

section
variable {s : State} {i : Unit6} {circ : Bool} {len : Half} {buf : Word} {b : Byte}

/-- P1 with a byte waiting (R122). -/
theorem recvStep_p1 (hp : s.fg.phase = .p1) (hf : flag (s.uart i).sr .rxr = true) :
    recvStep i circ len buf s = .next (s.goto .p2) := by
  simp [recvStep, hp, hf]

/-- The machine with a byte of a polled RECV taken: stored at index k of the buffer, `rxr` clear (R122). -/
def State.tookByte (s : State) (i : Unit6) (buf : Word) (k : Half) : State :=
  { s.setUart i (s.uart i).takeRdr with
    mem := s.mem.write (byteAddr buf k).toNat (s.uart i).rdr }.setK (k + 1#16)

@[simp] theorem State.tookByte_uart (k : Half) : (s.tookByte i buf k).uart i = (s.uart i).takeRdr :=
  State.uart_setUart_same s i _

@[simp] theorem State.foregroundMayAct_tookByte (k : Half) :
    (s.tookByte i buf k).foregroundMayAct = s.foregroundMayAct :=
  State.foregroundMayAct_setUart (s := s) (i := i) (u := (s.uart i).takeRdr) rfl

/-- P2: the byte waiting is taken; on to the next byte, or the end of the operation (R122). -/
theorem recvStep_p2 (hp : s.fg.phase = .p2) (hv : memValid s.par (byteAddr buf s.fg.k) = true) :
    recvStep i circ len buf s = .next
      (if (s.fg.k + 1#16).toNat < len.toNat then (s.tookByte i buf s.fg.k).goto .p1
        else (s.tookByte i buf s.fg.k).endFg .recv 0#32) := by
  simp only [recvStep, hp, memWrite_valid hv, State.setK_fg]
  exact (apply_ite Host.Outcome.next _ _ _).symm

/-- One byte of the polled path, once it waits in the data register: P1 and P2 (R122). -/
theorem polledRecv_byte (hm : s.foregroundMayAct = true) (hop : s.fg.op = some (.recv i circ len buf))
    (hp : s.fg.phase = .p1) (hf : flag (s.uart i).sr .rxr = true) {k : Half} (hk : s.fg.k = k)
    (hv : memValid s.par (byteAddr buf k) = true) :
    runMoves [Move.foreground, .foreground] s = .next
      (if (k + 1#16).toNat < len.toNat then s.tookByte i buf k
        else ((s.tookByte i buf k).goto .p2).endFg .recv 0#32) := by
  subst hk
  have h1 : agentStep .foreground s = .next (s.goto .p2) :=
    (foregroundStep_of_op hm hop).trans (recvStep_p1 hp hf)
  have h2 : agentStep .foreground (s.goto .p2) = _ :=
    (foregroundStep_of_op (s := s.goto .p2) hm hop).trans (recvStep_p2 (s := s.goto .p2) (circ := circ) rfl hv)
  rw [runMoves_cons, h1, Out.andThen_next, runMoves_cons, h2, Out.andThen_next, runMoves_nil]
  refine congrArg Host.Outcome.next (if_congr Iff.rfl ?_ rfl)
  exact State.goto_self (s := s.tookByte i buf s.fg.k) hp

/-- The machine with a byte delivered to a unit and latched (R197). -/
def State.latched (s : State) (i : Unit6) (b : Byte) : State :=
  s.setUart i { s.uart i with rxact := true, rdr := b, sr := setFlag (s.uart i).sr .rxr }

@[simp] theorem State.latched_uart : (s.latched i b).uart i =
    { s.uart i with rxact := true, rdr := b, sr := setFlag (s.uart i).sr .rxr } :=
  State.uart_setUart_same s i _

@[simp] theorem State.foregroundMayAct_latched : (s.latched i b).foregroundMayAct = s.foregroundMayAct :=
  State.foregroundMayAct_setUart (s := s) (i := i)
    (u := { s.uart i with rxact := true, rdr := b, sr := setFlag (s.uart i).sr .rxr }) rfl

/-- Without receive DMA the line's byte is latched (R197). -/
theorem rxByte_latches (hu : (s.uart i).usable = true) (hf : flag (s.uart i).sr .rxr = false)
    (hn : (s.uart i).ch.rx.active = false ∨ (s.uart i).dmaRx = false) (b : Byte) :
    agentStep (.rxByte i b) s = .next (s.latched i b) :=
  rxByteStep_latches hu hf (hn.elim (fun h => .inr (.inl h)) .inl)

/-- The end of a polled RECV of a unit: the memory filled, the last byte left in the data register, `rxr` clear. -/
def State.polledRecvEnd (s : State) (i : Unit6) (len : Half) (m : Memory) (b : Byte) (rxact : Bool) : State :=
  (({ s.setUart i { s.uart i with rdr := b, rxact := rxact, sr := clearFlag (s.uart i).sr .rxr } with
    mem := m }.setK len).goto .p2).endFg .recv 0#32

/-- A polled RECV ends the same wherever it was followed to: what each byte wrote is written again. -/
theorem State.polledRecvEnd_latched (b0 : Byte) (m : Memory) (rxact : Bool) :
    (s.latched i b0).polledRecvEnd i len m b rxact = s.polledRecvEnd i len m b rxact := by
  rw [State.polledRecvEnd, State.latched_uart]
  simp only [State.latched, State.setUart, PerUnit.set_set, clearFlag_setFlag_same]
  rfl

theorem State.polledRecvEnd_tookByte (k : Half) (m : Memory) (rxact : Bool) :
    (s.tookByte i buf k).polledRecvEnd i len m b rxact = s.polledRecvEnd i len m b rxact := by
  rw [State.polledRecvEnd, State.tookByte_uart]
  simp only [State.tookByte, State.setUart, State.setK, PerUnit.set_set, Uart.takeRdr_sr, clearFlag_clearFlag_same]
  rfl

/-- A polled RECV at P1: the bytes `acc` are stored in its buffer, over the memory `m0`, and the byte b waits. -/
structure State.RecvWaiting (s : State) (i : Unit6) (circ : Bool) (len : Half) (buf : Word) (m0 : Memory)
    (acc : List Byte) (b : Byte) : Prop where
  mayAct : s.foregroundMayAct = true
  op     : s.fg.op = some (.recv i circ len buf)
  phase  : s.fg.phase = .p1
  index  : s.fg.k = BitVec.ofNat 16 acc.length
  usable : (s.uart i).usable = true
  polled : (s.uart i).dmaRx = false
  rxr    : flag (s.uart i).sr .rxr = true
  rdr    : (s.uart i).rdr = b
  stored : m0.Filled s.mem buf acc
  fits   : acc.length < len.toNat
  valid  : bufferValid s.par buf len

section
variable {m0 : Memory} {acc bs : List Byte} {b0 b1 : Byte}

/-- A polled RECV at P1 to which the line delivers a byte (R122, R197). -/
theorem State.RecvWaiting.of_latched (hm : s.foregroundMayAct = true)
    (hop : s.fg.op = some (.recv i circ len buf)) (hp : s.fg.phase = .p1) (hk : s.fg.k = BitVec.ofNat 16 acc.length)
    (hu : (s.uart i).usable = true) (hdma : (s.uart i).dmaRx = false) (hmem : m0.Filled s.mem buf acc)
    (hfits : acc.length < len.toNat) (hv : bufferValid s.par buf len) :
    (s.latched i b).RecvWaiting i circ len buf m0 acc b where
  mayAct := State.foregroundMayAct_latched.trans hm
  op := hop
  phase := hp
  index := hk
  usable := by rw [State.latched_uart]; exact hu
  polled := by rw [State.latched_uart]; exact hdma
  rxr := by rw [State.latched_uart]; exact flag_setFlag_same _ _
  rdr := by rw [State.latched_uart]
  stored := hmem
  fits := hfits
  valid := hv

/-- The byte waiting is stored (R122). -/
theorem State.RecvWaiting.stored_concat (h : s.RecvWaiting i circ len buf m0 acc b0) :
    m0.Filled (s.tookByte i buf (BitVec.ofNat 16 acc.length)).mem buf (acc ++ [b0]) := by
  have := len.isLt
  have := h.fits
  have hfill := h.stored.concat (by omega) b0
  rw [← h.rdr] at hfill ⊢
  exact hfill

/-- The last byte (R122). -/
theorem State.RecvWaiting.last (h : s.RecvWaiting i circ len buf m0 acc b0) (hlast : acc.length + 1 = len.toNat) :
    ∃ m, m0.Filled m buf (acc ++ [b0]) ∧
      runMoves [Move.foreground, .foreground] s = .next (s.polledRecvEnd i len m b0 (s.uart i).rxact) := by
  have hend : BitVec.ofNat 16 acc.length + 1#16 = len := by
    rw [Half.ofNat_succ, hlast, BitVec.ofNat_toNat, BitVec.setWidth_eq]
  refine ⟨_, h.stored_concat, ?_⟩
  rw [polledRecv_byte h.mayAct h.op h.phase h.rxr h.index (h.valid.at h.fits), hend, if_neg (lt_irrefl _), ← h.rdr]
  simp [State.tookByte, State.polledRecvEnd, hend, Uart.takeRdr]

/-- A byte that is not the last, and the next one delivered (R122, R197). -/
theorem State.RecvWaiting.next (h : s.RecvWaiting i circ len buf m0 acc b0) (hmore : acc.length + 1 < len.toNat)
    (b1 : Byte) : ∃ t, runMoves [Move.foreground, .foreground, .rxByte i b1] s = .next t ∧
      t.RecvWaiting i circ len buf m0 (acc ++ [b0]) b1 ∧ (t.uart i).rxact = true ∧
      ∀ m b rxact, t.polledRecvEnd i len m b rxact = s.polledRecvEnd i len m b rxact := by
  have hk : (BitVec.ofNat 16 acc.length + 1#16).toNat < len.toNat := by
    rwa [Half.ofNat_succ, Half.toNat_ofNat_of_le hmore.le]
  have htake := polledRecv_byte h.mayAct h.op h.phase h.rxr h.index (h.valid.at h.fits)
  rw [if_pos hk] at htake
  obtain ⟨x, hx⟩ : ∃ x, x = s.tookByte i buf (BitVec.ofNat 16 acc.length) := ⟨_, rfl⟩
  have hxu : x.uart i = (s.uart i).takeRdr := by rw [hx, State.tookByte_uart]
  have hrx : agentStep (.rxByte i b1) x = .next (x.latched i b1) :=
    rxByte_latches (by rw [hxu]; exact h.usable) (by rw [hxu]; exact flag_clearFlag_same _ _)
      (.inr (by rw [hxu]; exact h.polled)) b1
  refine ⟨x.latched i b1, ?_, .of_latched ?_ ?_ ?_ ?_ ?_ ?_ ?_ ?_ ?_, by rw [State.latched_uart], fun m b r => ?_⟩
  · have hsplit : [Move.foreground, .foreground, .rxByte i b1] =
        [Move.foreground, .foreground] ++ [Move.rxByte i b1] := rfl
    rw [hsplit, runMoves_append, htake, Out.andThen_next, ← hx, runMoves_cons, hrx, Out.andThen_next, runMoves_nil]
  · rw [hx, State.foregroundMayAct_tookByte]; exact h.mayAct
  · rw [hx]; exact h.op
  · rw [hx]; exact h.phase
  · rw [hx, List.length_append, List.length_singleton]
    exact Half.ofNat_succ _
  · rw [hxu]; exact h.usable
  · rw [hxu]; exact h.polled
  · rw [hx]; exact h.stored_concat
  · rwa [List.length_append, List.length_singleton]
  · rw [hx]; exact h.valid
  · rw [State.polledRecvEnd_latched, hx, State.polledRecvEnd_tookByte]

/-- The polled path, a byte waiting and the line delivering the rest (R122, R128). -/
theorem State.RecvWaiting.run (h : s.RecvWaiting i circ len buf m0 acc b0)
    (hlen : (acc ++ b0 :: bs).length = len.toNat) :
    ∃ m b, m0.Filled m buf (acc ++ b0 :: bs) ∧ (b0 :: bs).getLast? = some b ∧
      runMoves ([Move.foreground, .foreground] ++
          bs.flatMap fun b => [Move.rxByte i b, .foreground, .foreground]) s =
        .next (s.polledRecvEnd i len m b ((s.uart i).rxact || !bs.isEmpty)) := by
  induction bs generalizing s b0 acc with
  | nil =>
    obtain ⟨m, hfill, hrun⟩ := h.last (by simpa using hlen)
    exact ⟨m, b0, hfill, rfl, by simpa using hrun⟩
  | cons b1 bs ih =>
    simp only [List.length_append, List.length_cons] at hlen
    obtain ⟨t, ht, hwait, hact, hend⟩ := h.next (by omega) b1
    obtain ⟨m, b, hfill, hlast, hrun⟩ := ih hwait (by simp only [List.length_append, List.length_cons]; simp; omega)
    refine ⟨m, b, by simpa using hfill, by simpa using hlast, ?_⟩
    have hsplit : ([Move.foreground, .foreground] ++
        (b1 :: bs).flatMap fun b => [Move.rxByte i b, .foreground, .foreground]) =
      [Move.foreground, .foreground, .rxByte i b1] ++
        ([Move.foreground, .foreground] ++ bs.flatMap fun b => [Move.rxByte i b, .foreground, .foreground]) := rfl
    rw [hsplit, runMoves_append, ht, Out.andThen_next, hrun, hend, hact]
    simp

/-- The first byte of the polled path, already waiting or delivered by the line (R122, R128). -/
theorem polledRecv_first (hm : s.foregroundMayAct = true) (hop : s.fg.op = some (.recv i circ len buf))
    (hp : s.fg.phase = .p1) (hk : s.fg.k = 0#16) (hu : (s.uart i).usable = true) (hdma : (s.uart i).dmaRx = false)
    (hwf : s.mem.wf) (h0 : 0 < len.toNat) (hv : bufferValid s.par buf len)
    (hb : flag (s.uart i).sr .rxr = true → b0 = (s.uart i).rdr) :
    ∃ t, runMoves (if flag (s.uart i).sr .rxr then [] else [Move.rxByte i b0]) s = .next t ∧
      t.RecvWaiting i circ len buf s.mem [] b0 ∧
      (t.uart i).rxact = ((s.uart i).rxact || !flag (s.uart i).sr .rxr) ∧
      ∀ m b rxact, t.polledRecvEnd i len m b rxact = s.polledRecvEnd i len m b rxact := by
  cases hf : flag (s.uart i).sr .rxr with
  | true =>
    exact ⟨s, rfl, ⟨hm, hop, hp, hk, hu, hdma, hf, (hb hf).symm, .nil hwf buf, h0, hv⟩, by simp, fun _ _ _ => rfl⟩
  | false =>
    refine ⟨s.latched i b0, ?_, .of_latched hm hop hp hk hu hdma (.nil hwf buf) h0 hv, ?_,
      fun m b r => State.polledRecvEnd_latched b0 m r⟩
    · rw [if_neg Bool.false_ne_true, runMoves_cons, rxByte_latches hu hf (.inr hdma), Out.andThen_next, runMoves_nil]
    · rw [State.latched_uart]
      simp

end

end

/-- Settles O24: the first byte (`polledRecv_first`), and the rest of the buffer (`State.RecvWaiting.run`). -/
theorem polledRecvStoresTheBytes : Obligations.PolledRecvStoresTheBytes := by
  intro s i circ len b0 bs hfree hwf hu hdma hb hlen hv
  have hpos : 0 < len.toNat := by rw [← hlen]; exact Nat.succ_pos _
  have h0 : len ≠ 0#16 := by rintro rfl; exact absurd hpos (lt_irrefl _)
  have hexec := (exec_recv (circ := circ) hfree).trans (recvStart_polled hu h0 hdma)
  obtain ⟨x, hx⟩ : ∃ x, x = (s.startFg (.recv i circ len s.a.q0) .p1).setK 0#16 := ⟨_, rfl⟩
  have hxu : x.uart i = s.uart i := by rw [hx]; rfl
  obtain ⟨y, hfirst, hwait, hact, hend⟩ := polledRecv_first (s := x) (i := i) (circ := circ) (len := len)
    (buf := s.a.q0) (b0 := b0) (by rw [hx]; exact hfree.mayAct) (by rw [hx]; rfl) (by rw [hx]; rfl) (by rw [hx]; rfl)
    (by rw [hxu]; exact hu) (by rw [hxu]; exact hdma) (by rw [hx]; exact hwf) hpos (by rw [hx]; exact hv)
    (by rw [hxu]; exact hb)
  obtain ⟨m, b, hfill, hlast, hrun⟩ := hwait.run (bs := bs) hlen
  have hmem : x.mem = s.mem := by rw [hx]; rfl
  rw [hxu] at hfirst hact
  rw [hmem] at hfill
  have hrun' : runMoves ((if flag (s.uart i).sr .rxr then [] else [Move.rxByte i b0]) ++
      [Move.foreground, .foreground] ++ bs.flatMap fun b => [Move.rxByte i b, .foreground, .foreground]) x = .next (x.polledRecvEnd i len m b
        ((s.uart i).rxact || !flag (s.uart i).sr .rxr || !bs.isEmpty)) := by
    rw [List.append_assoc, runMoves_append, hfirst, Out.andThen_next, hrun, hend, hact]
  have htu : ∀ j, (x.polledRecvEnd i len m b ((s.uart i).rxact || !flag (s.uart i).sr .rxr || !bs.isEmpty)).uart j =
      (x.setUart i { x.uart i with
        rdr := b, rxact := (s.uart i).rxact || !flag (s.uart i).sr .rxr || !bs.isEmpty
        sr := clearFlag (x.uart i).sr .rxr }).uart j := fun _ => rfl
  refine ⟨_, b, clearFlag (s.uart i).sr .rxr, (presentThen_of_exec (hexec.trans (by rw [hx])) _).trans hrun', ?_, rfl,
    ?_, hfill.holds, ?_, ?_, ?_, fun j hj => ?_, hlast, ?_, fun k => flag_clearFlag _ _ k⟩
  · rw [hx]; rfl
  · rw [hx]; rfl
  · rw [← hlen]; exact hfill.outside
  · rw [hx]; rfl
  · rw [hx]; rfl
  · rw [htu, State.uart_setUart_ne _ _ hj, hx]
    rfl
  · rw [htu, State.uart_setUart_same, hxu]

end Sys2Proof.Machine
end

section
/-! PROOFS. RECV by DMA (R122, R130, R131, R133, R135): its label D1, where the trigger takes a waiting byte, and the
one-shot transfer byte by byte; and the byte operations SENDB and RECVB (R123, R124). -/

namespace Sys2Proof.Machine

/-! ### RECV's label D1 -/

section
variable {s : State} {i : Unit6} {circ : Bool} {len : Half} {buf : Word}

/-- The machine as RECV's trigger leaves it, before the receive service (R130, R131). -/
def State.recvStarted (s : State) (i : Unit6) (circ : Bool) (len : Half) (buf : Word) : State :=
  (s.setUart i ((s.uart i).started .rx .periphToMem (.dr i) (.mem buf) len circ s.par.prioRx)).emit (.trigger i .rx)

@[simp] theorem State.recvStarted_uart : (s.recvStarted i circ len buf).uart i =
    (s.uart i).started .rx .periphToMem (.dr i) (.mem buf) len circ s.par.prioRx :=
  State.uart_setUart_same s i _

/-- RECV past its start: a circular one ends, a one-shot one goes on to wait (R122). -/
def State.afterStart (s : State) (circ : Bool) : State := if circ then s.endFg .recv 0#32 else s.goto .d2

/-- D1 of RECV with the channel free: it is armed and triggered, and the trigger runs the receive service (R131). -/
theorem recvStep_d1 (hp : s.fg.phase = .d1) (ho : (s.uart i).ch.rx.outstanding = false) :
    recvStep i circ len buf s =
      (rxServiceStep i (s.recvStarted i circ len buf)).andThen fun t => .next (t.afterStart circ) := by
  have ha : (s.uart i).ch.rx.active = false := by simp_all [Chan.outstanding]
  simp only [recvStep, hp]
  rw [armStep_free (d := .rx) ho, Out.andThen_next, triggerStep_rx_free (by simpa using ha),
    State.uart_setUart_same, State.setUart_setUart]
  cases circ <;> rfl

/-- Byte 0 of a stream just started (R133; log entry 12 for a length of 0). -/
theorem Chan.rxAdvance_arm (c : Chan) (dir : XferDir) (src dst : Endpoint) (len : Half) (circ : Bool)
    (prio : BitVec 2) : ({ c.arm dir src dst len circ prio with active := true } : Chan).rxAdvance =
      { c.arm dir src dst len circ prio with
        cnt := len - 1#16
        off := if circ = true then BitVec.ofNat 16 (1 % len.toNat) else 1#16
        active := circ || decide (len ≠ 1#16)
        done := !circ && decide (len = 1#16) } := by
  rw [Chan.rxAdvance_eq rfl]
  simp only [Chan.arm, Bool.or_false]
  rfl

/-- No byte to take, or a channel that may not take it: the receive service changes nothing (R133). -/
theorem rxServiceStep_idle (h : (s.uart i).rxTakes = false) : rxServiceStep i s = .next s := by
  rw [rxServiceStep, rxService_idle h]
  exact congrArg _ (s.setUart_self i)

/-- The byte waiting is taken, its address backed by memory (R133). -/
theorem rxServiceStep_takes {base : Word} (h : (s.uart i).rxTakes = true) (hd : (s.uart i).ch.rx.dst = .mem base)
    (hv : memValid s.par (byteAddr base (s.uart i).ch.rx.off) = true) :
    rxServiceStep i s = .next
      { s.setUart i ((s.uart i).takeRdr.setCh .rx (s.uart i).ch.rx.rxAdvance) with
        mem := s.mem.write (byteAddr base (s.uart i).ch.rx.off).toNat (s.uart i).rdr } := by
  rw [rxServiceStep, rxService_takes h hd hv]

/-- D1 of RECV where the trigger takes no byte (R122). -/
theorem recvStep_d1_idle (hp : s.fg.phase = .d1) (ho : (s.uart i).ch.rx.outstanding = false)
    (hn : flag (s.uart i).sr .rxr = false ∨ (s.uart i).dmaRx = false ∨ (s.uart i).chFault.rx ≠ none) :
    recvStep i circ len buf s = .next ((s.recvStarted i circ len buf).afterStart circ) := by
  have ht : ((s.recvStarted i circ len buf).uart i).rxTakes = false := by
    rw [State.recvStarted_uart, Bool.eq_false_iff, Ne, Uart.rxTakes_iff]
    rintro ⟨hdma, -, hf, hc⟩
    obtain h | h | h := hn
    · exact Bool.false_ne_true (h.symm.trans hf)
    · exact Bool.false_ne_true (h.symm.trans hdma)
    · exact h hc
  rw [recvStep_d1 hp ho, rxServiceStep_idle ht, Out.andThen_next]

/-- D1 of RECV where the trigger takes a waiting byte as byte 0 (R122, R131, R133). -/
theorem recvStep_d1_takes (hp : s.fg.phase = .d1) (ho : (s.uart i).ch.rx.outstanding = false)
    (hf : flag (s.uart i).sr .rxr = true) (hdma : (s.uart i).dmaRx = true) (hn : (s.uart i).chFault.rx = none)
    (hv : memValid s.par (byteAddr buf 0#16) = true) {x : State} (hx : x = s.recvStarted i circ len buf) :
    recvStep i circ len buf s = .next (State.afterStart
      { x.setUart i ((x.uart i).takeRdr.setCh .rx (x.uart i).ch.rx.rxAdvance) with
        mem := s.mem.write (byteAddr buf 0#16).toNat (s.uart i).rdr } circ) := by
  subst hx
  have ht : ((s.recvStarted i circ len buf).uart i).rxTakes = true := by
    rw [State.recvStarted_uart]
    exact Uart.rxTakes_iff.mpr ⟨hdma, rfl, hf, hn⟩
  rw [recvStep_d1 hp ho, rxServiceStep_takes (base := buf) ht (by rw [State.recvStarted_uart]; rfl)
    (by rw [State.recvStarted_uart]; exact hv), Out.andThen_next, State.recvStarted_uart]
  rfl

end

/-- Settles O26: `recvStep_d1_idle` and `recvStep_d1_takes`, the channel's fields those of `Chan.rxAdvance_eq`. -/
theorem recvTriggerTakesAWaitingByte : Obligations.RecvTriggerTakesAWaitingByte := by
  intro s i circ len buf hm hop hp ha hd
  have ho : (s.uart i).ch.rx.outstanding = false := by simp [Chan.outstanding, ha, hd]
  refine ⟨s.recvStarted i circ len buf, rfl, fun hn => ?_, fun hf hdma hn hv => ?_⟩
  · exact (foregroundStep_of_op hm hop).trans (recvStep_d1_idle hp ho hn)
  · refine ⟨_, clearFlag (s.uart i).sr .rxr, fun k => flag_clearFlag _ _ k, rfl, ?_⟩
    refine (foregroundStep_of_op hm hop).trans ((recvStep_d1_takes hp ho hf hdma hn hv rfl).trans ?_)
    have hadv : ((s.recvStarted i circ len buf).uart i).ch.rx.rxAdvance =
        { ((s.recvStarted i circ len buf).uart i).ch.rx with
          cnt := len - 1#16
          off := if circ = true then BitVec.ofNat 16 (1 % len.toNat) else 1#16
          active := circ || decide (len ≠ 1#16)
          done := !circ && decide (len = 1#16) } := by
      rw [State.recvStarted_uart]
      exact Chan.rxAdvance_arm _ _ _ _ _ _ _
    rw [hadv]
    simp only [State.recvStarted_uart]
    rfl

/-! ### A one-shot RECV by DMA -/

section
variable {u : Uart} {b : Byte} {bs : List Byte}

/-- The unit once a running stream has taken a byte from the line: only RDR and RXACT show it (R133, R197). -/
def Uart.received (u : Uart) (b : Byte) : Uart := { u with rxact := true, rdr := b }

/-- The unit after a list of bytes taken by a stream. -/
def Uart.receivedAll (u : Uart) (bs : List Byte) : Uart := bs.foldl Uart.received u

theorem Uart.receivedAll_concat (bs : List Byte) (b : Byte) :
    u.receivedAll (bs ++ [b]) = (u.receivedAll bs).received b := by
  rw [Uart.receivedAll, List.foldl_append]
  rfl

theorem Uart.receivedAll_eq (u : Uart) (bs : List Byte) :
    ∃ rxact rdr, u.receivedAll bs = { u with rxact := rxact, rdr := rdr } := by
  induction bs using List.reverseRecOn with
  | nil => exact ⟨u.rxact, u.rdr, rfl⟩
  | append_singleton bs b ih =>
    obtain ⟨rxact, rdr, h⟩ := ih
    rw [Uart.receivedAll_concat, h]
    exact ⟨true, b, rfl⟩

theorem Uart.receivedAll_of_getLast (h : bs.getLast? = some b) : u.receivedAll bs = u.received b := by
  obtain ⟨cs, rfl⟩ := List.getLast?_eq_some_iff.mp h
  obtain ⟨rxact, rdr, hcs⟩ := u.receivedAll_eq cs
  rw [Uart.receivedAll_concat, hcs]
  rfl

end

section
variable {s : State} {i : Unit6} {len : Half} {buf : Word} {c : Chan} {bs : List Byte} {m : Memory}

/-- The machine during a DMA receive on a unit: triggered, its channel as given, a list of bytes taken since, and the
memory they are stored in. -/
def State.dmaReceiving (s : State) (i : Unit6) (c : Chan) (bs : List Byte) (m : Memory) : State :=
  { ((s.emit (.trigger i .rx)).goto .d2).setUart i (((s.uart i).receivedAll bs).setCh .rx c) with mem := m }

@[simp] theorem State.dmaReceiving_uart :
    (s.dmaReceiving i c bs m).uart i = ((s.uart i).receivedAll bs).setCh .rx c :=
  State.uart_setUart_same _ _ _

/-- The next byte taken (R133). -/
theorem State.dmaReceiving_setUart (c' : Chan) (bs' : List Byte) (m' : Memory) :
    { (s.dmaReceiving i c bs m).setUart i (((s.uart i).receivedAll bs').setCh .rx c') with mem := m' } =
      s.dmaReceiving i c' bs' m' := by
  simp only [State.dmaReceiving, State.setUart, PerUnit.set_set]

theorem State.dmaReceiving_uart_ne {j : Unit6} (hj : j ≠ i) : (s.dmaReceiving i c bs m).uart j = s.uart j :=
  State.uart_setUart_ne _ _ hj

@[simp] theorem State.foregroundMayAct_dmaReceiving :
    (s.dmaReceiving i c bs m).foregroundMayAct = s.foregroundMayAct := by
  obtain ⟨rxact, rdr, h⟩ := (s.uart i).receivedAll_eq bs
  exact State.foregroundMayAct_setUart (s := s) (i := i) (u := ((s.uart i).receivedAll bs).setCh .rx c) (by rw [h]; rfl)

/-- D1 of a one-shot RECV, no byte waiting (R122, R130, R131). -/
theorem recvStep_d1_oneShot (hp : s.fg.phase = .d1) (ho : (s.uart i).ch.rx.outstanding = false) (h0 : len ≠ 0#16)
    (hf : flag (s.uart i).sr .rxr = false)
    (hc : c = (s.uart i).ch.rx.arm .periphToMem (.dr i) (.mem buf) len false s.par.prioRx) :
    recvStep i false len buf s = .next (s.dmaReceiving i (c.moved 0) [] s.mem) := by
  rw [recvStep_d1_idle hp ho (.inl hf), hc, ← Chan.arm_eq_moved _ _ _ _ _ _ h0]
  rfl

/-- A byte taken by the stream of a DMA receive (R133, R197). -/
theorem dmaRecv_byte (hu : (s.uart i).usable = true) (hdma : (s.uart i).dmaRx = true)
    (hf : flag (s.uart i).sr .rxr = false) (hn : (s.uart i).chFault.rx = none) (hdst : c.dst = .mem buf)
    (hcirc : c.circ = false) (hmore : bs.length < c.len.toNat) (hv : bufferValid s.par buf c.len) (b : Byte) :
    agentStep (.rxByte i b) (s.dmaReceiving i (c.moved bs.length) bs m) = .next
      (s.dmaReceiving i (c.moved (bs ++ [b]).length) (bs ++ [b])
        (m.write (byteAddr buf (BitVec.ofNat 16 bs.length)).toNat b)) := by
  obtain ⟨rxact, rdr, h⟩ := (s.uart i).receivedAll_eq bs
  have hunit := State.dmaReceiving_uart (s := s) (i := i) (c := c.moved bs.length) (bs := bs) (m := m)
  rw [h] at hunit
  refine (rxByteStep_stores (base := buf) (by rw [hunit]; exact hu) (by rw [hunit]; exact hf) (by rw [hunit]; exact hdma)
    (by rw [hunit]; exact decide_eq_true hmore) (by rw [hunit]; exact hn) (by rw [hunit]; exact hdst)
    (by rw [hunit]; exact hv.at hmore)).trans ?_
  rw [List.length_append, List.length_singleton, ← Chan.moved_rxAdvance hcirc hmore, hunit]
  have hrecv : ((s.uart i).receivedAll (bs ++ [b])).setCh .rx (c.moved bs.length).rxAdvance =
      ({ ({ s.uart i with rxact := rxact, rdr := rdr } : Uart).setCh .rx (c.moved bs.length) with
        rxact := true, rdr := b } : Uart).setCh .rx (c.moved bs.length).rxAdvance := by
    rw [Uart.receivedAll_concat, h]
    rfl
  rw [← State.dmaReceiving_setUart (c := c.moved bs.length) (bs := bs) (m := m) (c.moved bs.length).rxAdvance
    (bs ++ [b]), hrecv]
  rfl

/-- The bytes of a DMA receive, one after the other (R133). -/
theorem dmaRecv_bytes (hu : (s.uart i).usable = true) (hdma : (s.uart i).dmaRx = true)
    (hf : flag (s.uart i).sr .rxr = false) (hn : (s.uart i).chFault.rx = none) (hdst : c.dst = .mem buf)
    (hcirc : c.circ = false) (hle : bs.length ≤ c.len.toNat) (hv : bufferValid s.par buf c.len) (hwf : s.mem.wf) :
    ∃ m, s.mem.Filled m buf bs ∧ runMoves (delivered i bs) (s.dmaReceiving i (c.moved 0) [] s.mem) =
      .next (s.dmaReceiving i (c.moved bs.length) bs m) := by
  induction bs using List.reverseRecOn with
  | nil => exact ⟨s.mem, .nil hwf buf, rfl⟩
  | append_singleton bs b ih =>
    rw [List.length_append, List.length_singleton] at hle
    have := c.len.isLt
    obtain ⟨m, hfill, hrun⟩ := ih (by omega)
    refine ⟨_, hfill.concat (by omega) b, ?_⟩
    have hbyte := dmaRecv_byte (m := m) hu hdma hf hn hdst hcirc (Nat.lt_of_succ_le hle) hv b
    rw [delivered, List.map_append, runMoves_append, ← delivered, hrun, Out.andThen_next, List.map_singleton,
      runMoves_cons, hbyte, Out.andThen_next, runMoves_nil]

theorem recvStep_d2 {circ : Bool} (hp : s.fg.phase = .d2) (hs : (s.uart i).sig.rx = true) :
    recvStep i circ len buf s = .next (s.goto .d3) := by
  simp [recvStep, hp, hs]

theorem recvStep_d3 {circ : Bool} (hp : s.fg.phase = .d3) :
    recvStep i circ len buf s = .next ((s.setUart i ((s.uart i).setSig .rx false)).endFg .recv 0#32) := by
  simp [recvStep, hp]

/-- The end of a one-shot RECV by DMA (R122, R135). -/
theorem dmaRecv_completes (hm : s.foregroundMayAct = true) (hop : s.fg.op = some (.recv i false len buf))
    (hp : s.fg.phase = .d2) (hdone : (s.uart i).ch.rx.done = true) (hn : (s.uart i).chFault.rx = none) :
    runMoves [.dmaDone i .rx, .foreground, .foreground] s = .next
      (((s.setUart i (((s.uart i).setCh .rx { (s.uart i).ch.rx with done := false }).setSig .rx false)).goto
        .d3).endFg .recv 0#32) :=
  dma_completes hm hop hp hdone hn (fun _ _ hp hs => recvStep_d2 hp hs) fun _ _ hp => recvStep_d3 hp

/-- A whole one-shot RECV by DMA, from its label D1 (R122, R129): the start, the bytes and the completion. -/
theorem dmaRecv_run (hm : s.foregroundMayAct = true) (hop : s.fg.op = some (.recv i false len buf))
    (hp : s.fg.phase = .d1) (hu : (s.uart i).usable = true) (h0 : len ≠ 0#16) (hdma : (s.uart i).dmaRx = true)
    (hf : flag (s.uart i).sr .rxr = false) (hn : (s.uart i).chFault.rx = none)
    (ho : (s.uart i).ch.rx.outstanding = false) (hlen : bs.length = len.toNat) (hv : bufferValid s.par buf len)
    (hwf : s.mem.wf) (hc : c = (s.uart i).ch.rx.arm .periphToMem (.dr i) (.mem buf) len false s.par.prioRx) :
    ∃ m e, s.mem.Filled m buf bs ∧ e = s.dmaReceiving i (c.moved len.toNat) bs m ∧
      runMoves (.foreground :: delivered i bs ++ [.dmaDone i .rx, .foreground, .foreground]) s = .next
        (((e.setUart i (((e.uart i).setCh .rx { (e.uart i).ch.rx with done := false }).setSig .rx false)).goto
          .d3).endFg .recv 0#32) := by
  have hstart : agentStep .foreground s = .next (s.dmaReceiving i (c.moved 0) [] s.mem) :=
    (foregroundStep_of_op hm hop).trans (recvStep_d1_oneShot hp ho h0 hf hc)
  have hclen : c.len = len := by rw [hc]; rfl
  obtain ⟨m, hfill, hbytes⟩ := dmaRecv_bytes (c := c) (bs := bs) hu hdma hf hn (by rw [hc]; rfl) (by rw [hc]; rfl)
    (by rw [hclen, hlen]) (by rw [hclen]; exact hv) hwf
  refine ⟨m, _, hfill, rfl, ?_⟩
  obtain ⟨rxact, rdr, h⟩ := (s.uart i).receivedAll_eq bs
  have hend := dmaRecv_completes (s := s.dmaReceiving i (c.moved len.toNat) bs m) (i := i)
    (by rw [State.foregroundMayAct_dmaReceiving]; exact hm) hop rfl
    (by rw [State.dmaReceiving_uart]; exact decide_eq_true (by rw [hclen]))
    (by rw [State.dmaReceiving_uart, h]; exact hn)
  rw [runMoves_append, runMoves_cons, hstart, Out.andThen_next, hbytes, hlen, Out.andThen_next, hend]

end

/-- Settles O25: `dmaRecv_run`, its unit holding the last byte taken. -/
theorem oneShotRecvStoresTheBytes : Obligations.OneShotRecvStoresTheBytes := by
  intro s i len bs hfree hwf hu hdma hf ha hd hn hlen h0 hv
  have hexec := (exec_recv (circ := false) hfree).trans (recvStart_dma hu h0 hdma)
  have ho : (s.uart i).ch.rx.outstanding = false := by simp [Chan.outstanding, ha, hd]
  obtain ⟨b, hb⟩ : ∃ b, bs.getLast? = some b := by
    refine Option.ne_none_iff_exists'.mp fun hnone => h0 (BitVec.eq_of_toNat_eq ?_)
    rw [← hlen, List.getLast?_eq_none_iff.mp hnone]
    rfl
  obtain ⟨c, hc⟩ : ∃ c, c = (s.uart i).ch.rx.arm .periphToMem (.dr i) (.mem s.a.q0) len false s.par.prioRx := ⟨_, rfl⟩
  obtain ⟨m, e, hfill, he, hrun⟩ := dmaRecv_run (s := s.startFg (.recv i false len s.a.q0) .d1) hfree.mayAct rfl rfl hu
    h0 hdma hf hn ho hlen hv hwf hc
  have heu : e.uart i = ((s.uart i).received b).setCh .rx (c.moved len.toNat) := by
    rw [he, State.dmaReceiving_uart, Uart.receivedAll_of_getLast hb]
    rfl
  have hch : ({ (e.uart i).ch.rx with done := false } : Chan) =
      ⟨.periphToMem, 0#2, .dr i, .mem s.a.q0, len, false, s.par.prioRx, 0#16, len, false, false⟩ := by
    rw [heu, hc]
    exact Chan.moved_len_callback _
  refine ⟨_, b, (presentThen_of_exec hexec _).trans hrun, ?_, rfl, ?_, ?_, ?_, ?_, ?_, fun j hj => ?_, hb, ?_⟩
  · rw [State.endFg_r, State.goto_r, State.setUart_r, he]
    rfl
  · rw [State.endFg_trace, State.endFg_r, State.goto_trace, State.setUart_trace, he]
    exact List.append_assoc _ _ _
  · rw [State.endFg_mem, State.goto_mem, State.setUart_mem, he]
    exact hfill.holds
  · rw [State.endFg_mem, State.goto_mem, State.setUart_mem, he, ← hlen]
    exact hfill.outside
  · rw [State.endFg_frame, State.goto_frame, State.setUart_frame, he]
    rfl
  · rw [State.endFg_a, State.goto_a, State.setUart_a, he]
    rfl
  · rw [State.endFg_uart, State.goto_uart, State.uart_setUart_ne _ _ hj, he]
    exact State.dmaReceiving_uart_ne hj
  · rw [State.endFg_uart, State.goto_uart, State.uart_setUart_same, hch, heu]
    rfl

/-! ### SENDB and RECVB -/

section
variable {s : State} {i : Unit6} {v : Byte}

/-- The labels of SENDB, the line taking its byte (R123). -/
theorem sendb_run (hm : s.foregroundMayAct = true) (hop : s.fg.op = some (.sendb i v)) (hp : s.fg.phase = .p1)
    (hu : (s.uart i).usable = true) :
    runMoves [.foreground, .txShift i, .foreground, .foreground] s =
      .next (((s.sent i [v]).goto .p3).endFg .sendb 0#32) := by
  have h1 : agentStep .foreground s = .next ((s.setUart i ((s.uart i).writeTdr v)).goto .p2) := by
    refine (foregroundStep_of_op hm hop).trans ?_
    simp only [FgOp.step, sendbStep, hp]
  have h2 : agentStep (.txShift i) ((s.setUart i ((s.uart i).writeTdr v)).goto .p2) =
      .next ((s.sent i [v]).goto .p2) := txShift_sends_written (s := s.goto .p2) hu v
  have hf : flag (((s.sent i [v]).goto .p2).uart i).sr .txe = true := by
    rw [State.goto_uart, State.sent_uart_same]
    exact Uart.flag_sent .txe
  have h3 : agentStep .foreground ((s.sent i [v]).goto .p2) = .next ((s.sent i [v]).goto .p3) := by
    refine (foregroundStep_of_op (s := (s.sent i [v]).goto .p2) (by simpa using hm) hop).trans ?_
    simp only [FgOp.step, sendbStep, State.goto_fg, hf, if_true]
    rfl
  have h4 : agentStep .foreground ((s.sent i [v]).goto .p3) =
      .next (((s.sent i [v]).goto .p3).endFg .sendb 0#32) :=
    foregroundStep_of_op (s := (s.sent i [v]).goto .p3) (by simpa using hm) hop
  simp only [runMoves_cons, h1, h2, h3, h4, Out.andThen_next, runMoves_nil]

/-- The labels of RECVB with a byte waiting (R124). -/
theorem recvb_run (hm : s.foregroundMayAct = true) (hop : s.fg.op = some (.recvb i)) (hp : s.fg.phase = .p1)
    (hf : flag (s.uart i).sr .rxr = true) :
    runMoves [.foreground, .foreground] s =
      .next (((s.setUart i (s.uart i).takeRdr).goto .p2).endFg .recvb ((s.uart i).rdr.setWidth 32)) := by
  have h1 : agentStep .foreground s = .next (s.goto .p2) := by
    refine (foregroundStep_of_op hm hop).trans ?_
    simp [FgOp.step, recvbStep, hp, hf]
  have h2 : agentStep .foreground (s.goto .p2) =
      .next (((s.setUart i (s.uart i).takeRdr).goto .p2).endFg .recvb ((s.uart i).rdr.setWidth 32)) :=
    foregroundStep_of_op (s := s.goto .p2) hm hop
  rw [runMoves_cons, h1, Out.andThen_next, runMoves_cons, h2, Out.andThen_next, runMoves_nil]

end

/-- A byte latched and taken again leaves the flags as they were (R39, R197). -/
theorem State.latched_takeRdr {s : State} {i : Unit6} {b : Byte} (hf : flag (s.uart i).sr .rxr = false) :
    (s.latched i b).setUart i ((s.latched i b).uart i).takeRdr = s.setUart i ((s.uart i).received b) := by
  rw [State.latched_uart, State.latched, State.setUart_setUart, Uart.takeRdr]
  simp only [clearFlag_setFlag_of_clear hf]
  rfl

/-- Settles O27: `sendb_run`, and `recvb_run` from a byte already waiting or just latched. -/
theorem byteOperationsMoveOneByte : Obligations.ByteOperationsMoveOneByte := by
  intro s i v hfree hu
  have hrecvb := presentThen_of_exec (exec_recvb (i := i) hfree hu)
  refine ⟨?_, fun hf => ⟨clearFlag (s.uart i).sr .rxr, fun k => flag_clearFlag _ _ k, ?_⟩, fun hf hn => ?_⟩
  · refine ⟨_, ((s.uart i).sent v).sr, (presentThen_of_exec (exec_sendb hfree hu v) _).trans
      (sendb_run (s := s.startFg (.sendb i v) .p1) hfree.mayAct rfl rfl hu), fun k => Uart.flag_sent k, ?_⟩
    rfl
  · exact (hrecvb _).trans (recvb_run (s := s.startFg (.recvb i) .p1) hfree.mayAct rfl rfl hf)
  · rw [hrecvb, runMoves_cons, rxByte_latches (s := s.startFg (.recvb i) .p1) hu hf hn v, Out.andThen_next]
    refine (recvb_run (s := (s.startFg (.recvb i) .p1).latched i v) ?_ rfl rfl ?_).trans ?_
    · rw [State.foregroundMayAct_latched]
      exact hfree.mayAct
    · rw [State.latched_uart]
      exact flag_setFlag_same _ _
    · rw [State.latched_takeRdr (s := s.startFg (.recvb i) .p1) hf, State.latched_uart]
      rfl

end Sys2Proof.Machine
end

section
/-! PROOFS. The registry's operations (R150 to R156): what binding a unit comes to, and INIT, SETH and the register
accesses where R94 accepts them. -/

namespace Sys2Proof.Machine

/-! ### Presented outside its context, or of no unit -/

/-- A foreground-only operation outside the foreground context (R94). -/
theorem acceptForeground_outside {s : State} (h : s.allIdle = false) (k : State → Out) :
    ∃ why, acceptForeground s k = .refused why := by
  cases hh : s.someHandler with
  | true => exact ⟨_, acceptForeground_someHandler hh⟩
  | false => exact ⟨_, acceptForeground_noContext h hh⟩

/-- An operation of both contexts is accepted in either (R94). -/
theorem State.hostContext.accepts {s : State} {i : Instr} (h : s.hostContext) (hi : foregroundOnly i = false) :
    s.accepts i :=
  h.imp id (And.intro hi)

/-- An accepted operation whose INST field names no unit is a ConfigurationError (R78, R232). -/
theorem exec_namesNoUnit {i : Instr} {s : State} {n : BitVec 4} (hwf : i.wf = true) (hn : unitField i = some n)
    (hacc : s.accepts i) (hno : namesNoUnit n) : exec i s = .next (s.raise (opName i)) := by
  obtain ⟨k, hk⟩ := exec_meaning hwf
  rw [hk.exec_accepts hacc, hk.noUnit n hn (unitOf_namesNoUnit hno)]

/-! ### Binding -/

section
variable {p : Params} {i : Unit6} {c : UartConfig} {baud opts : Word} {u : Uart}

theorem modeSupported_iff : modeSupported p c = true ↔ c ∉ p.unsupported := by
  simp [modeSupported]

/-- Only an enabled configuration without a baud solution has no divisor (R151, R152). -/
theorem configDivisor_eq_none (hmode : c.mode ≠ .disabled)
    (hsolve : solveBaud (p.pclk.get i).toNat c.baud.toNat = none) : configDivisor p i c = none := by
  simp [configDivisor, hmode, hsolve]

theorem configDivisor_disabled (hmode : c.mode = .disabled) : configDivisor p i c = some 0#16 := by
  simp [configDivisor, hmode]

/-- R151: the divisor of an enabled configuration is 16 * coarse + fine. -/
theorem configDivisor_solved {x : Solution} {brr : Half} (hmode : c.mode ≠ .disabled)
    (hsolve : solveBaud (p.pclk.get i).toNat c.baud.toNat = some x) (hbrr : brr.toNat = 16 * x.coarse + x.fine) :
    configDivisor p i c = some brr := by
  simp [configDivisor, hmode, hsolve, fracSteps, ← hbrr]

/-- A bound unit is not bound again (R158). -/
theorem bindUart_alreadyBound (h : u.cfgv = true) : bindUart p i baud opts u = .alreadyBound := by
  simp [bindUart, h]

/-- Each check of INIT, failing, is a ConfigurationError (R152). -/
theorem bindUart_configError (hu : u.cfgv = false)
    (h : optionsReserved opts ≠ 0#15 ∨ baud = 0#32 ∨ modeSupported p (unpackOptions baud opts) = false ∨
      configDivisor p i (unpackOptions baud opts) = none) :
    bindUart p i baud opts u = .configError := by
  simp only [bindUart, hu, Bool.false_eq_true, if_false]
  split_ifs with hreserved hbaud hmode
  · rfl
  · rfl
  · rfl
  · have hdiv := ((h.resolve_left hreserved).resolve_left hbaud).resolve_left (by simpa using hmode)
    rw [hdiv]

end

/-! ### INIT -/

section
variable {s : State} {i : Unit6}

theorem exec_init_alreadyBound (hf : s.foregroundFree)
    (h : bindUart s.par i s.a.q0 s.a.q1 (s.uart i) = .alreadyBound) :
    exec (.init (unitNumber i)) s = .refused (.rebind i) := by
  simp only [exec, execInit, acceptForeground_free hf, unitOf_unitNumber, h]

theorem exec_init_configError (hf : s.foregroundFree)
    (h : bindUart s.par i s.a.q0 s.a.q1 (s.uart i) = .configError) :
    exec (.init (unitNumber i)) s = .next (s.raise .init) := by
  simp only [exec, execInit, acceptForeground_free hf, unitOf_unitNumber, h]

theorem exec_init_bound {u : Uart} (hf : s.foregroundFree)
    (h : bindUart s.par i s.a.q0 s.a.q1 (s.uart i) = .bound u) :
    exec (.init (unitNumber i)) s = .next ((s.setUart i u).ret .init 0#32) := by
  simp only [exec, execInit, acceptForeground_free hf, unitOf_unitNumber, h]

end

/-- Settles O15: INIT answers as `bindUart` comes out, bound already, a failing check, or every check passed. -/
theorem initBindsTheUnit : Obligations.InitBindsTheUnit := by
  intro s cfg hf hcfg
  obtain rfl : cfg = unpackOptions s.a.q0 s.a.q1 := hcfg
  refine ⟨fun n => ⟨decode_encode (i := .init n) rfl, exec_namesNoUnit rfl rfl (.inl hf)⟩, fun i =>
    ⟨fun hb => ?_, fun hu herr => ?_, fun brr hu hreserved hbaud hmode hdiv => ?_⟩⟩
  · exact exec_init_alreadyBound hf (bindUart_alreadyBound hb)
  · refine exec_init_configError hf (bindUart_configError hu ?_)
    obtain hreserved | hbaud | hmode | ⟨hmode, hsolve⟩ := herr
    · exact .inl hreserved
    · exact .inr (.inl hbaud)
    · exact .inr (.inr (.inl (Bool.eq_false_iff.mpr fun h => modeSupported_iff.mp h hmode)))
    · exact .inr (.inr (.inr (configDivisor_eq_none hmode hsolve)))
  · have hdiv : configDivisor s.par i (unpackOptions s.a.q0 s.a.q1) = some brr := by
      obtain ⟨hdis, rfl⟩ | ⟨hen, x, hsolve, hbrr⟩ := hdiv
      · exact configDivisor_disabled hdis
      · exact configDivisor_solved hen hsolve hbrr
    exact exec_init_bound hf (bindUart_ok hu hreserved hbaud (modeSupported_iff.mpr hmode) hdiv)

/-! ### SETH -/

theorem kindOf_num (k : EventKind) : kindOf (BitVec.ofNat 4 k.num) = some k := by
  cases k <;> rfl

theorem seth_num_wf (n : BitVec 4) (k : EventKind) : (Instr.seth n (BitVec.ofNat 4 k.num)).wf = true := by
  cases k <;> rfl

section
variable {s : State} {k : EventKind}

theorem exec_seth_outside (n : BitVec 4) (h : s.allIdle = false) :
    ∃ why, exec (.seth n (BitVec.ofNat 4 k.num)) s = .refused why := by
  simp only [exec, execSeth, kindOf_num]
  exact acceptForeground_outside h _

theorem exec_seth (hf : s.foregroundFree) (i : Unit6) :
    exec (.seth (unitNumber i) (BitVec.ofNat 4 k.num)) s =
      .next ((s.setUart i ((s.uart i).setSlot k (slotOfToken s.a.q0))).ret .seth 0#32) := by
  simp only [exec, execSeth, kindOf_num, acceptForeground_free hf, unitOf_unitNumber]

end

/-- Settles O16: `exec_seth` replaces one slot of the handler table (`PerKind.get_set`). -/
theorem sethRegistersTheToken : Obligations.SethRegistersTheToken := by
  intro s k n
  have hwf := seth_num_wf n k
  refine ⟨decode_encode (i := .seth n _) hwf, exec_seth_outside n, fun hf =>
    ⟨fun i => ?_, exec_namesNoUnit hwf rfl (.inl hf)⟩⟩
  exact ⟨(s.uart i).hslot.set k (slotOfToken s.a.q0), fun j => PerKind.get_set _ k j _, exec_seth hf i⟩

/-! ### The register accesses -/

section
variable {s : State} (h : s.hostContext) (i : Unit6)
include h

theorem exec_rdsr : exec (.rdsr (unitNumber i)) s = .next (s.ret .rdsr ((s.uart i).sr.setWidth 32)) := by
  simp only [exec, execRdsr, acceptAny_context h, unitOf_unitNumber]

theorem exec_rddr : exec (.rddr (unitNumber i)) s =
    .next ((s.setUart i (s.uart i).takeRdr).ret .rddr ((s.uart i).rdr.setWidth 32)) := by
  simp only [exec, execRddr, acceptAny_context h, unitOf_unitNumber]

theorem exec_wrdr (v : Byte) : exec (.wrdr (unitNumber i) v) s =
    .next ((s.setUart i ((s.uart i).writeTdr v)).ret .wrdr 0#32) := by
  simp only [exec, execWrdr, acceptAny_context h, unitOf_unitNumber]

end

/-- The flags after a write of TDR (R39). -/
theorem flag_writeTdr (u : Uart) (v : Byte) (k : EventKind) :
    flag (u.writeTdr v).sr k = (!decide (k = .txe ∨ k = .txc) && flag u.sr k) := by
  rw [Uart.writeTdr_sr, flag_clearFlag, flag_clearFlag, Bool.decide_or, Bool.not_or, Bool.and_assoc, Bool.and_left_comm]

/-- WRDR's word, its IMM written as two bytes (R80, R156). -/
theorem decode_wrdr (n : BitVec 4) (v : Byte) : decode (0x22#8 ++ n ++ 0#4 ++ 0#8 ++ v) = .legal (.wrdr n v) := by
  have hw : (0x22#8 ++ n ++ 0#4 ++ 0#8 ++ v : Word) = encode (.wrdr n v) := BitVec.append_assoc
  rw [hw]
  exact decode_encode rfl

/-- Settles O17: each access by its own lemma, the flags by `flag_clearFlag` and `flag_writeTdr`. -/
theorem registerAccessesReadAndWrite : Obligations.RegisterAccessesReadAndWrite := by
  intro s v h
  refine ⟨fun n => ⟨decode_encode (i := .rdsr n) rfl, decode_encode (i := .rddr n) rfl, decode_wrdr n v⟩,
    exec_rdsr h, fun i => ?_, fun i => ?_, fun n hn => ?_⟩
  · exact ⟨clearFlag (s.uart i).sr .rxr, flag_clearFlag _ .rxr, exec_rddr h i⟩
  · exact ⟨((s.uart i).writeTdr v).sr, flag_writeTdr _ v, exec_wrdr h i v⟩
  · exact ⟨exec_namesNoUnit rfl rfl (h.accepts rfl) hn, exec_namesNoUnit rfl rfl (h.accepts rfl) hn,
      exec_namesNoUnit rfl rfl (h.accepts rfl) hn⟩

end Sys2Proof.Machine
end

section
/-! PROOFS. FINIT (R171): its three answers, and the unit and the stream its success leaves. -/

namespace Sys2Proof.Machine

/-- FINIT's fixed options, field by field (R171, R184). -/
theorem unpackOptions_framing (baud : Word) :
    unpackOptions baud framingOptions = ⟨baud, .halfDuplex, .none, .one, 0x10#8, 3#2⟩ := by
  simp only [unpackOptions, UartConfig.mk.injEq, true_and]
  decide

section
variable {s : State} (hf : s.foregroundFree)
include hf

/-- FINIT of a bound unit is refused (R158, R171). -/
theorem exec_finit_alreadyBound
    (hb : bindUart s.par s.par.frameUnit s.a.q0 framingOptions (s.uart s.par.frameUnit) = .alreadyBound) :
    exec .finit s = .refused (.rebind s.par.frameUnit) := by
  simp only [exec, execFinit, acceptForeground_free hf, hb]

/-- FINIT on a ConfigurationError of INIT (R152, R171). -/
theorem exec_finit_configError
    (hb : bindUart s.par s.par.frameUnit s.a.q0 framingOptions (s.uart s.par.frameUnit) = .configError) :
    exec .finit s = .next (s.raise .finit) := by
  simp only [exec, execFinit, acceptForeground_free hf, hb]

/-- FINIT past every check, its receive channel free (R171). -/
theorem exec_finit_bound {brr : Half}
    (hb : bindUart s.par s.par.frameUnit s.a.q0 framingOptions (s.uart s.par.frameUnit) =
      .bound ((s.uart s.par.frameUnit).commitBind (unpackOptions s.a.q0 framingOptions) brr))
    (ho : (s.uart s.par.frameUnit).ch.rx.outstanding = false) : exec .finit s = .next (s.afterFinit brr) := by
  have hstart := armTrigger_rx_of_empty (i := s.par.frameUnit)
    (s := s.setFraming ((s.uart s.par.frameUnit).framed (unpackOptions s.a.q0 framingOptions) brr))
    (by rwa [State.setFraming_uart]) (by rw [State.setFraming_uart]; exact flag_srStart _)
    .periphToMem (.dr s.par.frameUnit) (.mem s.par.winBase) s.par.frameCap true s.par.prioRx
  rw [State.setFraming_uart, State.setFraming_setUart] at hstart
  simp only [exec, execFinit, acceptForeground_free hf, hb]
  exact congrArg (fun o => Out.andThen o fun t => .next (t.ret .finit 0#32)) hstart

end

/-- INIT's checks of FINIT's configuration, all passed (R151, R171). -/
theorem bindUart_framing {p : Params} {i : Unit6} {baud : Word} {u : Uart} {brr : Half} {x : Solution}
    (hu : u.cfgv = false) (hsup : unpackOptions baud framingOptions ∉ p.unsupported)
    (hx : solveBaud (p.pclk.get i).toNat baud.toNat = some x)
    (hbrr : configDivisor p i (unpackOptions baud framingOptions) = some brr) :
    bindUart p i baud framingOptions u = .bound (u.commitBind (unpackOptions baud framingOptions) brr) := by
  have hbaud : baud ≠ 0#32 := fun h => by simp [h, solveBaud] at hx
  exact bindUart_ok hu (by decide) hbaud (modeSupported_iff.mpr hsup) hbrr

/-- Settles O41: FINIT answers as binding the framing unit comes out, and its success is `State.afterFinit`. -/
theorem finitStartsTheCircularReceive : Obligations.FinitStartsTheCircularReceive := by
  refine ⟨by decide, ?_⟩
  rintro s _ _ hf rfl rfl
  refine ⟨fun hc => ?_, fun hc herr => ?_, fun brr x hc hsup hx hbrr ha hd => ?_⟩
  · exact exec_finit_alreadyBound hf (bindUart_alreadyBound hc)
  · refine exec_finit_configError hf (bindUart_configError hc (.inr ?_))
    rw [unpackOptions_framing]
    obtain hbaud | hsup | hx := herr
    · exact .inl hbaud
    · exact .inr (.inl (Bool.eq_false_iff.mpr fun h => modeSupported_iff.mp h hsup))
    · exact .inr (.inr (configDivisor_eq_none nofun hx))
  · have hdiv := configDivisor_solved (p := s.par) (i := s.par.frameUnit)
      (c := ⟨s.a.q0, .halfDuplex, .none, .one, 0x10#8, 3#2⟩) nofun hx hbrr
    rw [← unpackOptions_framing] at hsup hdiv ⊢
    exact exec_finit_bound hf (bindUart_framing hc hsup hx hdiv) (by simp [Chan.outstanding, ha, hd])

end Sys2Proof.Machine
end

section
/-! PROOFS. The framing handler (R175 to R182): the captured length as a number, and its six steps one by one. -/

namespace Sys2Proof.Machine

/-- The captured length as a number (R179). -/
theorem capturedLength_toNat (cap cnt : Half) :
    (capturedLength cap cnt).toNat = min ((cap.toNat + 2 ^ 16 - cnt.toNat) % 2 ^ 16) cap.toNat := by
  have hsub : (cap - cnt).toNat = (cap.toNat + 2 ^ 16 - cnt.toNat) % 2 ^ 16 := by
    have := cnt.isLt
    rw [BitVec.toNat_sub]
    congr 1
    omega
  rw [capturedLength, hsub]
  split <;> omega

/-- The captured length counts the bytes since the rearm, up to the capacity (R137, R179). -/
theorem capturedLength_sub_ofNat (cap : Half) {n : Nat} (hn : n < 2 ^ 16) :
    (capturedLength cap (cap - BitVec.ofNat 16 n)).toNat = min n cap.toNat := by
  have hback : cap - (cap - BitVec.ofNat 16 n) = BitVec.ofNat 16 n := by bv_omega
  rw [capturedLength, hback, BitVec.toNat_ofNat, Nat.mod_eq_of_lt hn]
  split
  · rw [BitVec.toNat_ofNat, Nat.mod_eq_of_lt hn]
    omega
  · omega

section
variable {s : State} {i : Unit6}

theorem dispatcher_frame {f : FrameStep} (hp : (s.uart i).dsp.phase = .frame f) :
    agentStep (.dispatcher i) s = frameStep i f s := by
  simp only [agentStep, dispatcherStep, hp]

/-- F4 where the restarted stream takes no byte (R181; log entry 8). -/
theorem frameStep_f4_idle
    (hn : flag (s.uart i).sr .rxr = false ∨ (s.uart i).dmaRx = false ∨ (s.uart i).chFault.rx ≠ none) :
    frameStep i .f4 s = .next (s.setUart i
      (((s.uart i).setCh .rx { (s.uart i).ch.rx with off := 0#16, active := true }).setPhase (.frame .f5))) := by
  refine rxServiceStep_idle ?_
  rw [State.uart_setUart_same, Bool.eq_false_iff, Ne, Uart.rxTakes_iff]
  rintro ⟨hdma, -, hf, hc⟩
  obtain h | h | h := hn
  · exact Bool.false_ne_true (h.symm.trans hf)
  · exact Bool.false_ne_true (h.symm.trans hdma)
  · exact h hc

/-- F4 where the restarted stream takes the byte that was latched meanwhile, as byte 0 (R181). -/
theorem frameStep_f4_takes {base : Word} {c : Chan} (hc : c = { (s.uart i).ch.rx with off := 0#16, active := true })
    (hf : flag (s.uart i).sr .rxr = true) (hdma : (s.uart i).dmaRx = true) (hn : (s.uart i).chFault.rx = none)
    (hd : (s.uart i).ch.rx.dst = .mem base) (hv : memValid s.par (byteAddr base 0#16) = true) :
    frameStep i .f4 s = .next
      { s.setUart i (((s.uart i).takeRdr.setCh .rx c.rxAdvance).setPhase (.frame .f5)) with
        mem := s.mem.write (byteAddr base 0#16).toNat (s.uart i).rdr } := by
  have hoff : c.off = 0#16 := by rw [hc]
  obtain ⟨w, hw⟩ : ∃ w, w = ((s.uart i).setCh .rx c).setPhase (.frame .f5) := ⟨_, rfl⟩
  have hwc : w.ch.rx = c := by rw [hw]; rfl
  have hwu : (s.setUart i w).uart i = w := State.uart_setUart_same s i w
  have hstart : frameStep i .f4 s = rxServiceStep i (s.setUart i w) := by rw [hw, hc]; rfl
  rw [hstart, rxServiceStep_takes (base := base) ?_ (by rw [hwu, hwc, hc]; exact hd)
    (by rw [hwu, hwc, hoff]; exact hv), hwu, State.setUart_setUart, hwc, hoff, hw]
  · rfl
  · rw [hwu, Uart.rxTakes_iff, hwc, hw, hc]
    exact ⟨hdma, rfl, hf, hn⟩

/-- Settles O42: each phase runs its own step, F4 with and without a byte to take. -/
theorem framingHandlerTakesSixSteps : Obligations.FramingHandlerTakesSixSteps := by
  intro s i base
  refine ⟨dispatcher_frame, dispatcher_frame, fun hp => ?_, dispatcher_frame, fun hp hn => ?_,
    fun hp hf hdma hn hd hc hv => ?_, fun hp => ?_⟩
  · exact ⟨_, capturedLength_toNat _ _, dispatcher_frame hp⟩
  · exact (dispatcher_frame hp).trans (frameStep_f4_idle hn)
  · refine ⟨clearFlag (s.uart i).sr .rxr, flag_clearFlag _ _,
      (dispatcher_frame hp).trans ((frameStep_f4_takes rfl hf hdma hn hd hv).trans ?_)⟩
    rw [Chan.rxAdvance_eq rfl]
    simp only [hc]
    rfl
  · exact ⟨clearFlag (s.uart i).sr .idle, flag_clearFlag _ _, dispatcher_frame hp⟩

end

end Sys2Proof.Machine
end

section
/-! PROOFS. FRECV (R173, R233): its labels W1 and W2, the copy of the captured frame byte by byte, and the two runs, of
a frame and of a ShortFrame. -/

namespace Sys2Proof.Machine

/-! ### The labels -/

/-- The machine once FRECV's W2 has taken the frame's signal and latched its length (R173). -/
def State.frameClaimed (s : State) : State :=
  (s.setUart s.par.frameUnit ((s.uart s.par.frameUnit).setSig .rx false)).setN s.frame.len

/-- The machine with FRAME back in Armed (R50, R173). -/
def State.frameArmed (s : State) : State := { s with frame := { s.frame with state := .armed } }

/-- The machine with the window's byte k copied to index k of a buffer (R173). -/
def State.copiedByte (s : State) (buf : Word) (k : Half) : State :=
  { s with
    mem := s.mem.write (byteAddr buf k).toNat (s.mem.read (byteAddr s.par.winBase k).toNat) }.setK (k + 1#16)

section
variable {s : State} {buf : Word}

@[simp] theorem State.foregroundMayAct_frameClaimed : s.frameClaimed.foregroundMayAct = s.foregroundMayAct :=
  State.foregroundMayAct_setUart (s := s) (i := s.par.frameUnit)
    (u := (s.uart s.par.frameUnit).setSig .rx false) rfl

/-- W1 with the frame's signal set (R173). -/
theorem frecvStep_w1 (hp : s.fg.phase = .w1) (hsig : (s.uart s.par.frameUnit).sig.rx = true) :
    frecvStep buf s = .next (s.goto .w2) := by
  simp [frecvStep, hp, hsig]

/-- W2 of a ShortFrame (R233). -/
theorem frecvStep_w2_short (hp : s.fg.phase = .w2) (hlen : s.frame.len.toNat < 2) :
    frecvStep buf s = .next (s.frameClaimed.frameArmed.endFg .frecv minusOne) := by
  simp only [frecvStep, hp]
  exact if_pos hlen

/-- W2 of a frame to deliver (R173). -/
theorem frecvStep_w2 (hp : s.fg.phase = .w2) (hlen : 2 ≤ s.frame.len.toNat) :
    frecvStep buf s = .next ((s.frameClaimed.setK 0#16).goto .c1) := by
  simp only [frecvStep, hp]
  exact if_neg (Nat.not_lt.mpr hlen)

/-- C1: one byte of the window is copied; on to the next one, or to C2 after the last (R173). -/
theorem frecvStep_c1 (hp : s.fg.phase = .c1) (hsrc : memValid s.par (byteAddr s.par.winBase s.fg.k) = true)
    (hdst : memValid s.par (byteAddr buf s.fg.k) = true) :
    frecvStep buf s = .next
      (if (s.fg.k + 1#16).toNat < s.fg.n.toNat then s.copiedByte buf s.fg.k
        else (s.copiedByte buf s.fg.k).goto .c2) := by
  simp only [frecvStep, hp, memRead_valid hsrc, memWrite_valid hdst, State.setK_fg]
  exact (apply_ite Host.Outcome.next _ _ _).symm

/-- C2: FRAME is Armed again and the length is returned (R173). -/
theorem frecvStep_c2 (hp : s.fg.phase = .c2) :
    frecvStep buf s = .next (s.frameArmed.endFg .frecv (s.fg.n.setWidth 32)) := by
  simp only [frecvStep, hp]
  rfl

end

/-! ### The copy -/

/-- The window and a buffer share no byte in their first `len` bytes. -/
def State.windowApart (s : State) (buf : Word) (len : Half) : Prop :=
  ∀ j k : Half, j.toNat < len.toNat → k.toNat < len.toNat → byteAddr s.par.winBase j ≠ byteAddr buf k

section
variable {s : State} {m : Memory} {buf : Word} {len : Half}

@[simp] theorem bufferPrefix_length (m : Memory) (buf : Word) (n : Nat) : (bufferPrefix m buf n).length = n := by
  simp [bufferPrefix]

/-- Filling a buffer apart from the window leaves the window's bytes (R173). -/
theorem Memory.Filled.read_window {bs : List Byte} (h : s.mem.Filled m buf bs) (hle : bs.length ≤ len.toNat)
    (hapart : s.windowApart buf len) {n : Nat} (hn : n < len.toNat) :
    m.read (byteAddr s.par.winBase (BitVec.ofNat 16 n)).toNat =
      s.mem.read (byteAddr s.par.winBase (BitVec.ofNat 16 n)).toNat := by
  refine h.outside _ fun j hj => hapart _ _ ?_ ?_
  · rwa [Half.toNat_ofNat_of_le hn.le]
  · rw [Half.toNat_ofNat_of_le (hj.le.trans hle)]
    exact hj.trans_le hle

/-- FRECV with n bytes copied, the memory then m (R173). -/
def State.copied (s : State) (m : Memory) (n : Nat) : State := { s with mem := m }.setK (BitVec.ofNat 16 n)

/-- FRECV past n bytes of its copy, still at C1 or, after the last, at C2 (R173). -/
def State.copying (s : State) (m : Memory) (n : Nat) : State :=
  if n < s.fg.n.toNat then s.copied m n else (s.copied m n).goto .c2

/-- The next byte of the copy (R173). -/
theorem frecv_copies_byte (hm : s.foregroundMayAct = true) (hop : s.fg.op = some (.frecv buf)) (hp : s.fg.phase = .c1)
    {n : Nat} (hn : n < s.fg.n.toNat) (hsrc : memValid s.par (byteAddr s.par.winBase (BitVec.ofNat 16 n)) = true)
    (hdst : memValid s.par (byteAddr buf (BitVec.ofNat 16 n)) = true) :
    agentStep .foreground (s.copying m n) = .next (s.copying
      (m.write (byteAddr buf (BitVec.ofNat 16 n)).toNat
        (m.read (byteAddr s.par.winBase (BitVec.ofNat 16 n)).toNat)) (n + 1)) := by
  have hk : (s.copied m n).fg.k + 1#16 = BitVec.ofNat 16 (n + 1) := Half.ofNat_succ n
  rw [State.copying, if_pos hn]
  refine (foregroundStep_of_op (s := s.copied m n) hm hop).trans
    ((frecvStep_c1 (s := s.copied m n) (buf := buf) hp hsrc hdst).trans ?_)
  rw [hk, Half.toNat_ofNat_of_le (Nat.succ_le_of_lt hn), State.copiedByte, hk]
  rfl

/-- The copy, byte by byte (R173). -/
theorem frecv_copies (hm : s.foregroundMayAct = true) (hop : s.fg.op = some (.frecv buf)) (hp : s.fg.phase = .c1)
    (hwf : s.mem.wf) (hsrc : bufferValid s.par s.par.winBase s.fg.n) (hdst : bufferValid s.par buf s.fg.n)
    (hapart : s.windowApart buf s.fg.n) {n : Nat} (hn : n ≤ s.fg.n.toNat) :
    ∃ m, s.mem.Filled m buf (bufferPrefix s.mem s.par.winBase n) ∧
      runMoves (repeated n [.foreground]) (s.copying s.mem 0) = .next (s.copying m n) := by
  induction n with
  | zero => exact ⟨s.mem, .nil hwf buf, rfl⟩
  | succ n ih =>
    have := s.fg.n.isLt
    obtain ⟨m, hfill, hrun⟩ := ih (by omega)
    have hread := hfill.read_window (by rw [bufferPrefix_length]; omega) hapart hn
    have hnext := hfill.concat (by rw [bufferPrefix_length]; omega)
      (s.mem.read (byteAddr s.par.winBase (BitVec.ofNat 16 n)).toNat)
    have hbyte := frecv_copies_byte (m := m) hm hop hp hn (hsrc.at hn) (hdst.at hn)
    rw [bufferPrefix_length, ← bufferPrefix_succ] at hnext
    rw [hread] at hbyte
    refine ⟨_, hnext, ?_⟩
    rw [repeated_succ, runMoves_append, hrun, Out.andThen_next, runMoves_cons, hbyte, Out.andThen_next, runMoves_nil]

/-! ### The runs -/

/-- FRECV once it has waited for the signal of a frame: W1 and W2 (R173). -/
theorem frecv_begins (hm : s.foregroundMayAct = true) (hop : s.fg.op = some (.frecv buf)) (hp : s.fg.phase = .w1)
    (hsig : (s.uart s.par.frameUnit).sig.rx = true) :
    runMoves [.foreground, .foreground] s = frecvStep buf (s.goto .w2) := by
  have h1 : agentStep .foreground s = .next (s.goto .w2) :=
    (foregroundStep_of_op hm hop).trans (frecvStep_w1 hp hsig)
  have h2 : agentStep .foreground (s.goto .w2) = frecvStep buf (s.goto .w2) :=
    foregroundStep_of_op (s := s.goto .w2) hm hop
  rw [runMoves_cons, h1, Out.andThen_next, runMoves_cons, h2]
  cases frecvStep buf (s.goto .w2) <;> rfl

/-- The machine FRECV's C2 finds: the signal and the length claimed, the frame copied, the memory then m (R173). -/
def State.frameCopied (s : State) (m : Memory) : State :=
  (({ s.frameClaimed with mem := m } : State).setK s.frame.len).goto .c2

/-- FRECV's run over a frame of at least two bytes: the signal, the copy, and the return (R173). -/
theorem frecv_run (hm : s.foregroundMayAct = true) (hop : s.fg.op = some (.frecv buf)) (hp : s.fg.phase = .w1)
    (hsig : (s.uart s.par.frameUnit).sig.rx = true) (hlen : 2 ≤ s.frame.len.toNat) (hwf : s.mem.wf)
    (hsrc : bufferValid s.par s.par.winBase s.frame.len) (hdst : bufferValid s.par buf s.frame.len)
    (hapart : s.windowApart buf s.frame.len) :
    ∃ m, s.mem.Filled m buf (bufferBytes s.mem s.par.winBase s.frame.len) ∧
      runMoves (repeated (s.frame.len.toNat + 3) [.foreground]) s = .next
        ((s.frameCopied m).frameArmed.endFg .frecv (s.frame.len.setWidth 32)) := by
  have hbegin := frecv_begins hm hop hp hsig
  rw [frecvStep_w2 (s := s.goto .w2) rfl hlen] at hbegin
  obtain ⟨x, hx⟩ : ∃ x, x = ((s.goto .w2).frameClaimed.setK 0#16).goto .c1 := ⟨_, rfl⟩
  have hxn : x.fg.n = s.frame.len := by rw [hx]; rfl
  have hxm : x.foregroundMayAct = true := by
    rw [hx]
    exact State.foregroundMayAct_frameClaimed.trans hm
  obtain ⟨m, hfill, hcopy⟩ := frecv_copies (s := x) (buf := buf) (n := s.frame.len.toNat) hxm (by rw [hx]; exact hop)
    (by rw [hx]; rfl) (by rw [hx]; exact hwf) (by rw [hxn, hx]; exact hsrc) (by rw [hxn, hx]; exact hdst)
    (by rw [hxn, hx]; exact hapart) (by rw [hxn])
  have hstart : x.copying x.mem 0 = x := by
    rw [State.copying, if_pos (by rw [hxn]; omega), hx]
    rfl
  have hend : x.copying m s.frame.len.toNat = s.frameCopied m := by
    rw [State.copying, hxn, if_neg (lt_irrefl _), State.copied, hx, BitVec.ofNat_toNat, BitVec.setWidth_eq]
    rfl
  have hreturn : agentStep .foreground (s.frameCopied m) = _ :=
    (foregroundStep_of_op (s := s.frameCopied m) (State.foregroundMayAct_frameClaimed.trans hm) hop).trans
      (frecvStep_c2 (s := s.frameCopied m) (buf := buf) rfl)
  refine ⟨m, by rw [hx] at hfill; exact hfill, ?_⟩
  have hsplit : repeated (s.frame.len.toNat + 3) [.foreground] =
      [Move.foreground, .foreground] ++ (repeated s.frame.len.toNat [.foreground] ++ [.foreground]) := by
    rw [← repeated_succ]
    rfl
  rw [hstart, hend] at hcopy
  rw [hsplit, runMoves_append, hbegin, Out.andThen_next, ← hx, runMoves_append, hcopy, Out.andThen_next, runMoves_cons,
    hreturn, Out.andThen_next, runMoves_nil]
  rfl

/-- FRECV's run over a ShortFrame: the signal, and the error of its step W2 (R233). -/
theorem frecv_run_short (hm : s.foregroundMayAct = true) (hop : s.fg.op = some (.frecv buf)) (hp : s.fg.phase = .w1)
    (hsig : (s.uart s.par.frameUnit).sig.rx = true) (hlen : s.frame.len.toNat < 2) :
    runMoves [.foreground, .foreground] s =
      .next ((s.goto .w2).frameClaimed.frameArmed.endFg .frecv minusOne) :=
  (frecv_begins hm hop hp hsig).trans (frecvStep_w2_short (s := s.goto .w2) rfl hlen)

end

/-- FRECV once FINIT has run waits at W1 (R173). -/
theorem exec_frecv_armed {s : State} (hfree : s.foregroundFree) (hinit : s.frame.init = true) :
    exec .frecv s = .next (s.startFg (.frecv s.a.q0) .w1) := by
  rw [exec_frecv hfree, hinit]
  rfl

/-- Settles O45: `frecv_run` and `frecv_run_short`, from the state that waits at W1. -/
theorem frecvDeliversTheFrame : Obligations.FrecvDeliversTheFrame := by
  refine ⟨fun s hfree hwf hinit hsig hlen hsrc hdst hapart => ?_, fun s hfree hinit hsig hlen => ?_⟩
  · obtain ⟨m, hfill, hrun⟩ := frecv_run (s := s.startFg (.frecv s.a.q0) .w1) hfree.mayAct rfl rfl hsig hlen hwf hsrc
      hdst hapart
    refine ⟨_, (presentThen_of_exec (exec_frecv_armed hfree hinit) _).trans hrun, ?_⟩
    have houtside := hfill.outside
    rw [bufferBytes_eq_prefix, bufferPrefix_length] at houtside
    exact ⟨rfl, rfl, rfl, hfill.holds, houtside, rfl,
      by simp [State.frameArmed, State.frameCopied, State.frameClaimed], rfl⟩
  · refine ⟨_, (presentThen_of_exec (exec_frecv_armed hfree hinit) _).trans
      (frecv_run_short (s := s.startFg (.frecv s.a.q0) .w1) hfree.mayAct rfl rfl hsig hlen), ?_⟩
    exact ⟨rfl, rfl, rfl, rfl, rfl, by simp [State.frameArmed, State.frameClaimed], rfl⟩

end Sys2Proof.Machine
end

section
/-! PROOFS. What a burst leaves in the window (R133, R137, R191): the circular channel that moves n bytes, and the window
it fills, where each offset holds the last byte that came to it. -/

namespace Sys2Proof.Machine

/-! ### The circular channel -/

/-- A circular channel just armed that has moved n bytes since (R133, R137). -/
def Chan.circled (c : Chan) (n : Nat) : Chan :=
  { c with cnt := c.cnt - BitVec.ofNat 16 n, off := BitVec.ofNat 16 (n % c.len.toNat) }

theorem Chan.circled_zero {c : Chan} (h : c.off = 0#16) : c.circled 0 = c := by
  cases c
  subst h
  simp [Chan.circled]

theorem Chan.circled_rxAdvance {c : Chan} (hc : c.circ = true) (hlen : 0 < c.len.toNat) (n : Nat) :
    (c.circled n).rxAdvance = c.circled (n + 1) := by
  have hcnt : c.cnt - BitVec.ofNat 16 n - 1#16 = c.cnt - BitVec.ofNat 16 (n + 1) := by
    rw [← Half.ofNat_succ]
    bv_omega
  have hoff : ((BitVec.ofNat 16 (n % c.len.toNat)).toNat + 1) % c.len.toNat = (n + 1) % c.len.toNat := by
    rw [Half.toNat_ofNat_of_le (Nat.mod_lt n hlen).le, Nat.mod_add_mod]
  simp only [Chan.rxAdvance, Chan.circled, hc, if_true, hcnt, hoff]

/-! ### The window -/

/-- The index of the byte that lies at offset j of a window of `cap` bytes once n bytes have arrived: the last one
congruent to j (R137). -/
def lastIndex (cap n j : Nat) : Nat := j + cap * ((n - 1 - j) / cap)

/-- The byte that arrives goes to its own offset. -/
theorem lastIndex_arriving {cap n : Nat} : lastIndex cap (n + 1) (n % cap) = n := by
  have hn := Nat.mod_add_div n cap
  have hsub : n - n % cap = cap * (n / cap) := by omega
  rw [lastIndex, Nat.add_sub_cancel, hsub]
  obtain rfl | hcap := Nat.eq_zero_or_pos cap
  · simp
  · rwa [Nat.mul_div_cancel_left _ hcap]

/-- Every other offset in use keeps its byte. -/
theorem lastIndex_kept {cap n j : Nat} (hj : j < min (n + 1) cap) (hne : j ≠ n % cap) :
    j < min n cap ∧ lastIndex cap (n + 1) j = lastIndex cap n j := by
  have hcap : 0 < cap := by omega
  have hjn : j < n := by
    by_contra h
    obtain rfl : j = n := by omega
    exact hne (Nat.mod_eq_of_lt (by omega)).symm
  have hndvd : ¬ cap ∣ (n - 1 - j) + 1 := fun ⟨q, hq⟩ => hne <| by
    have hn : n = j + cap * q := by omega
    rw [hn, Nat.add_mul_mod_self_left, Nat.mod_eq_of_lt (by omega)]
  refine ⟨by omega, ?_⟩
  have hsucc : n + 1 - 1 - j = (n - 1 - j) + 1 := by omega
  rw [lastIndex, lastIndex, hsucc, Nat.succ_div_of_not_dvd hndvd]

theorem lastIndex_lt {cap n j : Nat} (hj : j < n) : lastIndex cap n j < n := by
  have := Nat.mul_div_le (n - 1 - j) cap
  rw [lastIndex]
  omega

/-- Up to the capacity, byte j lies at offset j. -/
theorem lastIndex_of_le {cap n j : Nat} (hj : j < n) (hn : n ≤ cap) : lastIndex cap n j = j := by
  rw [lastIndex, Nat.div_eq_of_lt (by omega), Nat.mul_zero, Nat.add_zero]

/-- m' is m with a list of bytes stored one after the other in a circular window, and nothing else changed (R62,
R137). -/
structure Memory.Circled (m m' : Memory) (base : Word) (cap : Nat) (bs : List Byte) : Prop where
  wf      : m'.wf
  holds   : ∀ j, j < min bs.length cap →
    bs[lastIndex cap bs.length j]? = some (m'.read (byteAddr base (BitVec.ofNat 16 j)).toNat)
  outside : sameOutside m m' base (min bs.length cap)

section
variable {m m' : Memory} {base : Word} {cap : Nat} {bs : List Byte}

theorem Memory.Circled.nil (h : m.wf) (base : Word) (cap : Nat) : m.Circled m base cap [] :=
  ⟨h, fun _ hj => by simp at hj, fun _ _ => rfl⟩

/-- The next byte of the burst stored. -/
theorem Memory.Circled.concat (h : m.Circled m' base cap bs) (hcap : 0 < cap) (hfits : cap < 2 ^ 16) (b : Byte) :
    m.Circled (m'.write (byteAddr base (BitVec.ofNat 16 (bs.length % cap))).toNat b) base cap (bs ++ [b]) where
  wf := Memory.wf_write h.wf (byteAddr base _).isLt b
  holds j hj := by
    rw [List.length_append, List.length_singleton] at hj ⊢
    by_cases hjo : j = bs.length % cap
    · rw [hjo, lastIndex_arriving, Memory.read_write_same h.wf, List.getElem?_concat_length]
    · obtain ⟨hjb, hkept⟩ := lastIndex_kept hj hjo
      have hmod := Nat.mod_lt bs.length hcap
      rw [hkept, List.getElem?_append_left (lastIndex_lt (by omega)), h.holds j hjb, Memory.read_write_ne h.wf]
      rw [Ne, ← BitVec.toNat_eq, byteAddr_inj, BitVec.toNat_eq, BitVec.toNat_ofNat, BitVec.toNat_ofNat]
      omega
  outside a ha := by
    rw [List.length_append, List.length_singleton] at ha
    have hmod := Nat.mod_lt bs.length hcap
    have hle := Nat.mod_le bs.length cap
    rw [Memory.read_write_ne h.wf, h.outside a fun j hj => ha j (by omega)]
    rw [Ne, ← BitVec.toNat_eq]
    exact ha _ (by omega)

/-- A burst of at most the window's capacity lies in it from its start (R185). -/
theorem Memory.Circled.holdsBytes (h : m.Circled m' base cap bs) (hle : bs.length ≤ cap) :
    holdsBytes m' base bs := by
  intro j hj
  have hbyte := h.holds j (by omega)
  rw [lastIndex_of_le hj hle, List.getElem?_eq_getElem hj] at hbyte
  exact (Option.some_inj.mp hbyte).symm

end

end Sys2Proof.Machine
end

section
/-! PROOFS. The burst that fills the window (R185): the line's bytes taken by the framing stream, and the idle event. -/

namespace Sys2Proof.Machine

section
variable {s : State} {i : Unit6} {bs : List Byte} {m : Memory}

/-- The machine with a list of bytes taken by a unit's circular stream, the memory then m (R133). -/
def State.streamed (s : State) (i : Unit6) (bs : List Byte) (m : Memory) : State :=
  { s.setUart i (((s.uart i).receivedAll bs).setCh .rx ((s.uart i).ch.rx.circled bs.length)) with mem := m }

theorem State.streamed_uart : (s.streamed i bs m).uart i =
    ((s.uart i).receivedAll bs).setCh .rx ((s.uart i).ch.rx.circled bs.length) :=
  State.uart_setUart_same s i _

theorem State.streamed_nil (h : (s.uart i).ch.rx.off = 0#16) : s.streamed i [] s.mem = s := by
  rw [State.streamed, List.length_nil, Chan.circled_zero h]
  exact s.setUart_self i

theorem State.streamed_setUart (bs' : List Byte) (m' : Memory) :
    { (s.streamed i bs m).setUart i
        (((s.uart i).receivedAll bs').setCh .rx ((s.uart i).ch.rx.circled bs'.length)) with mem := m' } =
      s.streamed i bs' m' := by
  simp only [State.streamed, State.setUart, PerUnit.set_set]

/-- The unit a burst of n bytes leaves, its last byte b: the channel moved on, `idle` set, RXACT clear (R133, R198). -/
def Uart.burstEnded (u : Uart) (b : Byte) (n : Nat) : Uart :=
  { (u.received b).setCh .rx (u.ch.rx.circled n) with rxact := false, sr := setFlag u.sr .idle }

/-- The machine a burst on the framing unit leaves, the memory then m (R133, R198). -/
def State.burstEnded (s : State) (b : Byte) (n : Nat) (m : Memory) : State :=
  { s.setUart s.par.frameUnit ((s.uart s.par.frameUnit).burstEnded b n) with mem := m }

theorem State.burstEnded_uart (b : Byte) (n : Nat) :
    (s.burstEnded b n m).uart s.par.frameUnit = (s.uart s.par.frameUnit).burstEnded b n :=
  State.uart_setUart_same s s.par.frameUnit _

end

section
variable {s : State} (h : s.FramingReady) (hpar : s.par.wf = true) (hv : s.WindowValid)
include h hpar hv

/-- A byte of the burst, stored at its offset of the window (R133, R197). -/
theorem State.FramingReady.takes_byte (bs : List Byte) (m : Memory) (b : Byte) :
    agentStep (.rxByte s.par.frameUnit b) (s.streamed s.par.frameUnit bs m) = .next
      (s.streamed s.par.frameUnit (bs ++ [b])
        (m.write (byteAddr s.par.winBase (BitVec.ofNat 16 (bs.length % s.par.frameCap.toNat))).toNat b)) := by
  have hcap : 0 < s.par.frameCap.toNat := of_decide_eq_true hpar
  have hoff : ((s.uart s.par.frameUnit).ch.rx.circled bs.length).off =
      BitVec.ofNat 16 (bs.length % s.par.frameCap.toNat) := by rw [Chan.circled, h.len]
  obtain ⟨rxact, rdr, hrecv⟩ := (s.uart s.par.frameUnit).receivedAll_eq bs
  have hunit := State.streamed_uart (s := s) (i := s.par.frameUnit) (bs := bs) (m := m)
  rw [hrecv] at hunit
  refine (rxByteStep_stores (base := s.par.winBase) (by rw [hunit]; exact h.usable) (by rw [hunit]; exact h.rxr)
    (by rw [hunit]; exact h.dmaRx) (by rw [hunit]; exact h.active) (by rw [hunit]; exact h.live)
    (by rw [hunit]; exact h.dst) (by rw [hunit]; exact hoff ▸ hv.at (Nat.mod_lt _ hcap))).trans
    (congrArg _ (Eq.trans ?_ (State.streamed_setUart (bs := bs) (m := m) (bs ++ [b]) _)))
  rw [hunit, Uart.receivedAll_concat, hrecv, List.length_append, List.length_singleton,
    ← Chan.circled_rxAdvance h.circ (h.len ▸ hcap), ← hoff]
  rfl

/-- The bytes of the burst, one after the other (R133, R137). -/
theorem State.FramingReady.takes_bytes (hmem : s.mem.wf) (bs : List Byte) :
    ∃ m, s.mem.Circled m s.par.winBase s.par.frameCap.toNat bs ∧
      runMoves (delivered s.par.frameUnit bs) s = .next (s.streamed s.par.frameUnit bs m) := by
  induction bs using List.reverseRecOn with
  | nil => exact ⟨s.mem, .nil hmem _ _, congrArg _ (State.streamed_nil h.off).symm⟩
  | append_singleton bs b ih =>
    obtain ⟨m, hfill, hrun⟩ := ih
    refine ⟨_, hfill.concat (of_decide_eq_true hpar) s.par.frameCap.isLt b, ?_⟩
    rw [delivered, List.map_append, runMoves_append, ← delivered, hrun, Out.andThen_next, List.map_singleton,
      runMoves_cons, h.takes_byte hpar hv, Out.andThen_next, runMoves_nil]

/-- A whole burst: its bytes and the idle event (R185, R198). -/
theorem State.FramingReady.burst_run (hmem : s.mem.wf) {bs : List Byte} (hne : 1 ≤ bs.length) :
    ∃ m b, s.mem.Circled m s.par.winBase s.par.frameCap.toNat bs ∧
      runMoves (delivered s.par.frameUnit bs ++ [.idleEvent s.par.frameUnit]) s =
        .next (s.burstEnded b bs.length m) := by
  obtain ⟨m, hfill, hrun⟩ := h.takes_bytes hpar hv hmem bs
  obtain ⟨b, hb⟩ : ∃ b, bs.getLast? = some b := by
    refine Option.ne_none_iff_exists'.mp fun hnone => ?_
    rw [List.getLast?_eq_none_iff.mp hnone] at hne
    exact absurd hne (by decide)
  have hunit := State.streamed_uart (s := s) (i := s.par.frameUnit) (bs := bs) (m := m)
  rw [Uart.receivedAll_of_getLast hb] at hunit
  have hidle : agentStep (.idleEvent s.par.frameUnit) (s.streamed s.par.frameUnit bs m) =
      .next (s.burstEnded b bs.length m) := by
    have hg : ((((s.uart s.par.frameUnit).received b).setCh .rx
        ((s.uart s.par.frameUnit).ch.rx.circled bs.length)).usable && true) = true := by
      rw [Bool.and_true]
      exact h.usable
    simp only [agentStep, idleEventStep, hunit]
    refine (if_pos hg).trans ?_
    simp only [State.streamed, State.setUart, PerUnit.set_set]
    rfl
  exact ⟨m, b, hfill, by rw [runMoves_append, hrun, Out.andThen_next, runMoves_cons, hidle, Out.andThen_next,
    runMoves_nil]⟩

end

end Sys2Proof.Machine
end

section
/-! PROOFS. The scan of a dispatch (R213 to R220, R224): one kind serviced or passed over, and kinds one after the
other, external handlers returning at once. -/

namespace Sys2Proof.Machine

/-! ### One step of the scan -/

section
variable {s : State} {i : Unit6} {k : EventKind}

theorem dispatcher_scan (hp : (s.uart i).dsp.phase = .scan k) : agentStep (.dispatcher i) s = scanStep i k s := by
  simp only [agentStep, dispatcherStep, hp]

theorem dispatcher_enter (hp : (s.uart i).dsp.phase = .idle) (hq : (s.uart i).irq = true) :
    agentStep (.dispatcher i) s = .next (s.setUart i (s.uart i).dispatchEnter) := by
  simp only [agentStep, dispatcherStep, hp, hq, if_true]

/-- A kind not in the snapshot is passed over (R214). -/
theorem scanStep_absent (hf : flag (s.uart i).dsp.snap k = false) :
    scanStep i k s = .next (s.setUart i ((s.uart i).advance k)) := by
  simp [scanStep, hf]

/-- A kind without a handler is cleared (R215). -/
theorem scanStep_empty (hf : flag (s.uart i).dsp.snap k = true) (hs : (s.uart i).hslot.get k = .empty) :
    scanStep i k s = .next (s.setUart i ((s.uart i).finish k)) := by
  simp [scanStep, hf, hs]

/-- The framing handler starts (R216). -/
theorem scanStep_frame (hf : flag (s.uart i).dsp.snap k = true) (hs : (s.uart i).hslot.get k = .frame) :
    scanStep i k s = .next (s.setUart i ((s.uart i).setPhase (.frame .f0))) := by
  simp [scanStep, hf, hs]

/-- An external handler is called (R217). -/
theorem scanStep_ext {h : Word} (hf : flag (s.uart i).dsp.snap k = true) (hs : (s.uart i).hslot.get k = .ext h) :
    scanStep i k s = .next ((s.setUart i ((s.uart i).setPhase (.inHandler k))).emit (.handlerCall i k h)) := by
  simp [scanStep, hf, hs]

/-- HRET of a unit in handler k (R224). -/
theorem exec_hret (hp : (s.uart i).dsp.phase = .inHandler k) (hf : s.handlerFault = none) :
    exec (.hret (unitNumber i)) s = .next ((s.setUart i ((s.uart i).finish k)).ret .hret 0#32) := by
  have hh : s.someHandler = true := s.someHandler_iff.mpr ⟨i, k, hp⟩
  have hc : s.hostContext := .inr ⟨State.allIdle_of_someHandler hh, hh, hf⟩
  simp only [exec, execHret, acceptAny_context hc, unitOf_unitNumber, hp]

end

/-! ### One kind -/

/-- A unit whose dispatcher is past kind k, serviced if the snapshot holds it (R214, R218). -/
def Uart.passed (u : Uart) (k : EventKind) : Uart := if flag u.dsp.snap k then u.finish k else u.advance k

/-- A unit whose dispatcher is past a list of kinds. -/
def Uart.passedAll (u : Uart) (ks : List EventKind) : Uart := ks.foldl Uart.passed u

theorem Uart.passed_eq (u : Uart) (k : EventKind) : ∃ sr,
    u.passed k = { u with sr := sr, dsp := { u.dsp with phase := nextPhase k } } ∧
      ∀ j, flag u.sr j = false → flag sr j = false := by
  unfold Uart.passed
  split
  · refine ⟨(u.clearKind k).sr, ?_, fun j hj => ?_⟩
    · unfold Uart.finish Uart.clearKind
      split <;> rfl
    · rw [Uart.clearKind_sr]
      split
      · exact hj
      · rw [flag_clearFlag, hj, Bool.and_false]
  · exact ⟨u.sr, rfl, fun _ hj => hj⟩

/-- Past some kinds, the last of them k, a unit has lost flags and is at the phase after k; the rest is kept (R214,
R218). -/
theorem Uart.passedAll_eq (u : Uart) (ks : List EventKind) (k : EventKind) : ∃ sr,
    u.passedAll (ks ++ [k]) = { u with sr := sr, dsp := { u.dsp with phase := nextPhase k } } ∧
      ∀ j, flag u.sr j = false → flag sr j = false := by
  induction ks generalizing u with
  | nil => exact u.passed_eq k
  | cons j ks ih =>
    obtain ⟨sr, hpassed, hflags⟩ := u.passed_eq j
    obtain ⟨sr', hall, hflags'⟩ := ih (u.passed j)
    refine ⟨sr', hall.trans ?_, fun j hj => hflags' j ?_⟩
    · rw [hpassed]
    · rw [hpassed]
      exact hflags j hj

/-- What a unit's own agents and its dispatch leave, beside the unit, FRAME and memory: HRET writes R[0]. -/
structure State.Beside (i : Unit6) (s t : State) : Prop where
  units        : ∀ j, j ≠ i → t.uart j = s.uart j
  par          : t.par = s.par
  a            : t.a = s.a
  r            : { t.r with q0 := 0#32 } = { s.r with q0 := 0#32 }
  fg           : t.fg = s.fg
  fgFault      : t.fgFault = s.fgFault
  handlerFault : t.handlerFault = s.handlerFault

theorem State.Beside.write (s : State) (i : Unit6) (u : Uart) (m : Memory) (f : FrameRec) :
    s.Beside i { s.setUart i u with mem := m, frame := f } :=
  ⟨fun _ hj => State.uart_setUart_ne s u hj, rfl, rfl, rfl, rfl, rfl, rfl⟩

theorem State.Beside.setUart (s : State) (i : Unit6) (u : Uart) : s.Beside i (s.setUart i u) :=
  .write s i u s.mem s.frame

theorem State.Beside.trans {i : Unit6} {s t x : State} (h : s.Beside i t) (g : t.Beside i x) : s.Beside i x where
  units j hj := (g.units j hj).trans (h.units j hj)
  par := g.par.trans h.par
  a := g.a.trans h.a
  r := g.r.trans h.r
  fg := g.fg.trans h.fg
  fgFault := g.fgFault.trans h.fgFault
  handlerFault := g.handlerFault.trans h.handlerFault

/-- A dispatch has gone from s to t past a list of kinds of the unit u at its entry, none of them the framing
handler's. -/
structure State.Scanned (i : Unit6) (u : Uart) (ks : List EventKind) (s t : State) : Prop where
  unit   : t.uart i = (s.uart i).passedAll ks
  trace  : t.trace = s.trace ++ ks.flatMap (kindEvents i u s.r)
  frame  : t.frame = s.frame
  mem    : t.mem = s.mem
  beside : s.Beside i t

section
variable {s t : State} {i : Unit6} {u : Uart} {k : EventKind}

theorem kindEvents_congr {r q : Quad} (h : { r with q0 := 0#32 } = { q with q0 := 0#32 }) :
    kindEvents i u r = kindEvents i u q := by
  funext k
  simp only [kindEvents, h]

theorem State.Scanned.append {x : State} {ks js : List EventKind} (h : s.Scanned i u ks t) (g : t.Scanned i u js x) :
    s.Scanned i u (ks ++ js) x where
  unit := by rw [g.unit, h.unit, Uart.passedAll, Uart.passedAll, Uart.passedAll, List.foldl_append]
  trace := by rw [g.trace, h.trace, List.flatMap_append, List.append_assoc, kindEvents_congr h.beside.r]
  frame := g.frame.trans h.frame
  mem := g.mem.trans h.mem
  beside := h.beside.trans g.beside

/-- The machine once the handler of kind k has been called and has returned at once (R217, R224). -/
def State.handled (s : State) (i : Unit6) (k : EventKind) (h : Word) : State :=
  (State.setUart { s.emit (.handlerCall i k h) with cmd := encode (.hret (unitNumber i)) } i
    ((s.uart i).finish k)).ret .hret 0#32

theorem State.handled_beside {h : Word} : s.Beside i (s.handled i k h) :=
  ⟨fun _ hj => State.uart_setUart_ne s _ hj, rfl, rfl, rfl, rfl, rfl, rfl⟩

theorem Uart.setPhase_finish (u : Uart) (p : DspPhase) (k : EventKind) : (u.setPhase p).finish k = u.finish k := by
  unfold Uart.finish Uart.clearKind
  split <;> rfl

/-- An external handler called and ended by HRET (R217, R224). -/
theorem handler_run {h : Word} (hp : (s.uart i).dsp.phase = .scan k) (hk : flag (s.uart i).dsp.snap k = true)
    (hs : (s.uart i).hslot.get k = .ext h) (hf : s.handlerFault = none) :
    runMoves [.dispatcher i, .hostCommand (encode (.hret (unitNumber i)))] s = .next (s.handled i k h) := by
  obtain ⟨x, hx⟩ : ∃ x, x = (s.setUart i ((s.uart i).setPhase (.inHandler k))).emit (.handlerCall i k h) := ⟨_, rfl⟩
  have hxu : x.uart i = (s.uart i).setPhase (.inHandler k) := by rw [hx]; exact State.uart_setUart_same s i _
  have hcall : agentStep (.dispatcher i) s = .next x := by rw [dispatcher_scan hp, scanStep_ext hk hs, hx]
  have hret : agentStep (.hostCommand (encode (.hret (unitNumber i)))) x = _ :=
    (presentCommand_legal (decode_encode rfl) x).trans
      (exec_hret (s := { x with cmd := encode (.hret (unitNumber i)) }) (i := i) (k := k) (congrArg (·.dsp.phase) hxu)
        (by rw [hx]; exact hf))
  have hunit : State.uart { x with cmd := encode (.hret (unitNumber i)) } i = (s.uart i).setPhase (.inHandler k) := hxu
  rw [runMoves_cons, hcall, Out.andThen_next, runMoves_cons, hret, Out.andThen_next, runMoves_nil, hunit,
    Uart.setPhase_finish, hx]
  simp only [State.setUart, State.emit, PerUnit.set_set]
  rfl

/-- The moves that service or pass over one kind (R214 to R217, R224). -/
theorem kindMoves_run (hp : (s.uart i).dsp.phase = .scan k) (hsnap : (s.uart i).dsp.snap = u.sr)
    (hslot : (s.uart i).hslot = u.hslot) (hn : flag u.sr k = true → u.hslot.get k ≠ .frame)
    (hf : s.handlerFault = none) : ∃ t, runMoves (kindMoves i u k) s = .next t ∧ s.Scanned i u [k] t := by
  have hscan := dispatcher_scan hp
  cases hk : flag u.sr k with
  | false =>
    have hpassed : (s.uart i).passed k = (s.uart i).advance k := if_neg (by simp [hsnap, hk])
    refine ⟨s.setUart i ((s.uart i).passed k), ?_, State.uart_setUart_same s i _, ?_, rfl, rfl, .setUart s i _⟩
    · rw [kindMoves, hk, hpassed, if_neg Bool.false_ne_true, runMoves_cons, hscan, scanStep_absent (hsnap ▸ hk),
        Out.andThen_next, runMoves_nil]
    · simp [kindEvents, hk]
  | true =>
    have hpassed : (s.uart i).passed k = (s.uart i).finish k := if_pos (by rw [hsnap, hk])
    cases hs : u.hslot.get k with
    | frame => exact (hn hk hs).elim
    | empty =>
      refine ⟨s.setUart i ((s.uart i).passed k), ?_, State.uart_setUart_same s i _, ?_, rfl, rfl, .setUart s i _⟩
      · simp only [kindMoves, hk, if_true, hs, hpassed]
        rw [runMoves_cons, hscan, scanStep_empty (hsnap ▸ hk) (hslot ▸ hs), Out.andThen_next, runMoves_nil]
      · simp [kindEvents, hk, hs]
    | ext h =>
      refine ⟨s.handled i k h, ?_, ?_, ?_, rfl, rfl, s.handled_beside⟩
      · simp only [kindMoves, hk, if_true, hs]
        exact handler_run hp (hsnap ▸ hk) (hslot ▸ hs) hf
      · exact (State.uart_setUart_same _ i _).trans hpassed.symm
      · simp [kindEvents, hk, hs, State.handled]

/-- The moves of kinds that follow one another in the servicing order (R214). -/
theorem kindMoves_run_chain {ks : List EventKind} (hchain : List.IsChain (fun k j => k.succ = some j) (k :: ks))
    (hp : (s.uart i).dsp.phase = .scan k) (hsnap : (s.uart i).dsp.snap = u.sr)
    (hslot : (s.uart i).hslot = u.hslot) (hn : ∀ j ∈ k :: ks, flag u.sr j = true → u.hslot.get j ≠ .frame)
    (hf : s.handlerFault = none) :
    ∃ t, runMoves ((k :: ks).flatMap (kindMoves i u)) s = .next t ∧ s.Scanned i u (k :: ks) t := by
  induction ks generalizing s k with
  | nil =>
    rw [List.flatMap_singleton]
    exact kindMoves_run hp hsnap hslot (hn k (List.mem_singleton_self k)) hf
  | cons j ks ih =>
    obtain ⟨hsucc, hchain⟩ := List.isChain_cons_cons.mp hchain
    obtain ⟨t, ht, hkind⟩ := kindMoves_run hp hsnap hslot (hn k (List.mem_cons_self ..)) hf
    obtain ⟨sr, hpassed, -⟩ := (s.uart i).passed_eq k
    have htu : t.uart i = _ := hkind.unit.trans hpassed
    have htp : (t.uart i).dsp.phase = .scan j := by rw [htu, nextPhase, hsucc]
    obtain ⟨x, hx, hrest⟩ := ih hchain htp (by rw [htu]; exact hsnap) (by rw [htu]; exact hslot)
      (fun l hl => hn l (List.mem_cons_of_mem k hl)) (hkind.beside.handlerFault.trans hf)
    exact ⟨x, by rw [List.flatMap_cons, runMoves_append, ht, Out.andThen_next, hx], hkind.append hrest⟩

end

end Sys2Proof.Machine
end

section
/-! PROOFS. The dispatch that captures a frame (R175 to R182, R185): the framing handler's whole run, and the scan around
it. -/

namespace Sys2Proof.Machine

/-! ### The framing handler from the scan of idle-line to the scan after it -/

/-- A unit inside its framing handler: what of it F0 to F4 write, with the step it is at (R177 to R181). -/
def Uart.inFraming (u : Uart) (f : FrameStep) (masked : Bool) (rx : Chan) (flen : Half) : Uart :=
  { u with masked := masked, ch := ⟨rx, u.ch.tx⟩, dsp := ⟨.frame f, u.dsp.snap, flen⟩ }

/-- The unit once its framing handler has run with no byte waiting, the capacity being cap (R177 to R182). -/
def Uart.captured (u : Uart) (cap : Half) : Uart :=
  { u with
    sr := clearFlag u.sr .idle
    masked := false
    sig := ⟨true, u.sig.tx⟩
    ch := ⟨{ u.ch.rx with cnt := cap, off := 0#16, active := true }, u.ch.tx⟩
    dsp := ⟨.scan .pe, u.dsp.snap, capturedLength cap u.ch.rx.cnt⟩ }

/-- The machine once a unit's framing handler has run (R182). -/
def State.captured (s : State) (i : Unit6) : State :=
  { s.setUart i ((s.uart i).captured s.par.frameCap) with
    frame := s.frame.capture (capturedLength s.par.frameCap (s.uart i).ch.rx.cnt) }

section
variable {s : State} {i : Unit6} {u : Uart}

/-- A step of the framing handler of a unit replaced. -/
theorem dispatcher_inFraming (f : FrameStep) (masked : Bool) (rx : Chan) (flen : Half) :
    agentStep (.dispatcher i) (s.setUart i (u.inFraming f masked rx flen)) =
      frameStep i f (s.setUart i (u.inFraming f masked rx flen)) :=
  dispatcher_frame (by rw [State.uart_setUart_same]; rfl)

/-- F0 to F3 in any unit: masked, its stream stopped, its length computed, its counter reloaded (R177 to R180). -/
theorem framing_steps (s : State) (i : Unit6) (u : Uart) :
    (∀ m c l, agentStep (.dispatcher i) (s.setUart i (u.inFraming .f0 m c l)) =
      .next (s.setUart i (u.inFraming .f1 true c l))) ∧
    (∀ m c l, agentStep (.dispatcher i) (s.setUart i (u.inFraming .f1 m c l)) =
      .next (s.setUart i (u.inFraming .f2 m { c with active := false } l))) ∧
    (∀ m c l, agentStep (.dispatcher i) (s.setUart i (u.inFraming .f2 m c l)) =
      .next (s.setUart i (u.inFraming .f3 m c (capturedLength s.par.frameCap c.cnt)))) ∧
    ∀ m c l, agentStep (.dispatcher i) (s.setUart i (u.inFraming .f3 m c l)) =
      .next (s.setUart i (u.inFraming .f4 m { c with cnt := s.par.frameCap } l)) := by
  refine ⟨fun m c l => ?_, fun m c l => ?_, fun m c l => ?_, fun m c l => ?_⟩ <;>
  · rw [dispatcher_inFraming]
    simp only [frameStep, State.uart_setUart_same, State.setUart_setUart]
    rfl

/-- F4 with no byte waiting: the stream restarts at offset 0 (R181). -/
theorem framing_restarts (hr : flag u.sr .rxr = false) (m : Bool) (c : Chan) (l : Half) :
    agentStep (.dispatcher i) (s.setUart i (u.inFraming .f4 m c l)) =
      .next (s.setUart i (u.inFraming .f5 m { c with off := 0#16, active := true } l)) := by
  rw [dispatcher_inFraming, frameStep_f4_idle (by rw [State.uart_setUart_same]; exact .inl hr),
    State.uart_setUart_same, State.setUart_setUart]
  rfl

/-- F5: unmasked, the frame recorded and signalled, the scan goes on (R182). -/
theorem framing_records (m : Bool) (c : Chan) (l : Half) :
    agentStep (.dispatcher i) (s.setUart i (u.inFraming .f5 m c l)) = .next
      { s.setUart i { u with
          sr := clearFlag u.sr .idle
          masked := false
          sig := ⟨true, u.sig.tx⟩
          ch := ⟨c, u.ch.tx⟩
          dsp := ⟨.scan .pe, u.dsp.snap, l⟩ } with
        frame := s.frame.capture l } := by
  rw [dispatcher_inFraming]
  simp only [frameStep, State.uart_setUart_same, State.setUart_setUart]
  rfl

/-- The scan step that starts the framing handler, and its six steps (R216, R177 to R182). -/
theorem framing_run (hp : (s.uart i).dsp.phase = .scan .idle) (hf : flag (s.uart i).dsp.snap .idle = true)
    (hs : (s.uart i).hslot.get .idle = .frame) (hr : flag (s.uart i).sr .rxr = false) :
    runMoves (List.replicate 7 (.dispatcher i)) s = .next (s.captured i) := by
  have hscan : agentStep (.dispatcher i) s = .next (s.setUart i
      ((s.uart i).inFraming .f0 (s.uart i).masked (s.uart i).ch.rx (s.uart i).dsp.flen)) :=
    (dispatcher_scan hp).trans (scanStep_frame hf hs)
  obtain ⟨h0, h1, h2, h3⟩ := framing_steps s i (s.uart i)
  simp only [List.replicate, runMoves_cons, hscan, h0, h1, h2, h3, framing_restarts hr, framing_records,
    Out.andThen_next, runMoves_nil]
  rfl

/-! ### The whole dispatch -/

/-- A dispatch with an idle-line event to be framed: the kinds before it, the framing handler, and the kind after it. -/
theorem dispatchMoves_framing (hidle : flag u.sr .idle = true) (hs : u.hslot.get .idle = .frame) :
    dispatchMoves i u = .dispatcher i :: ([EventKind.cts, .brk, .txe, .txc, .rxr].flatMap (kindMoves i u) ++
      (List.replicate 7 (.dispatcher i) ++ [EventKind.pe].flatMap (kindMoves i u))) := by
  have hk : kindMoves i u .idle = List.replicate 7 (.dispatcher i) := by simp [kindMoves, hidle, hs]
  rw [← hk]
  simp [dispatchMoves, allKinds]

/-- A dispatch of a unit whose idle-line event is to be framed, no byte waiting: the other flags are serviced, the frame
is captured, and the dispatcher is Idle again (R185). -/
theorem framingDispatch_run (hu : u = s.uart i) (hp : u.dsp.phase = .idle) (hq : u.irq = true)
    (hidle : flag u.sr .idle = true) (hr : flag u.sr .rxr = false) (hs : u.hslot.get .idle = .frame)
    (hn : ∀ k, k ≠ .idle → u.hslot.get k ≠ .frame) (hf : s.handlerFault = none) :
    ∃ t sr, runMoves (dispatchMoves i u) s = .next t ∧ s.Beside i t ∧ t.mem = s.mem ∧
      t.frame = s.frame.capture (capturedLength s.par.frameCap u.ch.rx.cnt) ∧
      t.uart i = { u.captured s.par.frameCap with
        sr := sr, dsp := ⟨.idle, u.sr, capturedLength s.par.frameCap u.ch.rx.cnt⟩ } ∧
      flag sr .rxr = false := by
  have henter : agentStep (.dispatcher i) s = .next (s.setUart i u.dispatchEnter) := by
    rw [hu] at hp hq ⊢
    exact dispatcher_enter hp hq
  have hx : (s.setUart i u.dispatchEnter).uart i = u.dispatchEnter := State.uart_setUart_same s i _
  obtain ⟨x, hrunx, hscanx⟩ := kindMoves_run_chain (s := s.setUart i u.dispatchEnter) (i := i) (u := u) (k := .cts)
    (ks := [.brk, .txe, .txc, .rxr]) (by decide) (by rw [hx]; rfl) (by rw [hx]; rfl) (by rw [hx]; rfl)
    (fun j hj _ => hn j (by rintro rfl; exact absurd hj (by decide))) hf
  obtain ⟨sr, hpassed, hflags⟩ := u.dispatchEnter.passedAll_eq [.cts, .brk, .txe, .txc] .rxr
  have hxu : x.uart i = { u with sr := sr, dsp := ⟨.scan .idle, u.sr, u.dsp.flen⟩ } := by
    rw [hscanx.unit, hx]
    exact hpassed
  have hxpar : x.par = s.par := hscanx.beside.par
  have hframe := framing_run (s := x) (i := i) (by rw [hxu]) (by rw [hxu]; exact hidle) (by rw [hxu]; exact hs)
    (by rw [hxu]; exact hflags _ hr)
  have hy : (x.captured i).uart i = (x.uart i).captured x.par.frameCap := State.uart_setUart_same x i _
  obtain ⟨t, hrunt, hscant⟩ := kindMoves_run_chain (s := x.captured i) (i := i) (u := u) (k := .pe) (ks := [])
    (by decide) (by rw [hy]; rfl) (by rw [hy, hxu]; rfl) (by rw [hy, hxu]; rfl)
    (fun j hj _ => hn j (by rintro rfl; exact absurd hj (by decide))) (hscanx.beside.handlerFault.trans hf)
  obtain ⟨sr', hpassed', hflags'⟩ := ((x.captured i).uart i).passed_eq .pe
  have hbeside : x.Beside i (x.captured i) := .write x i _ x.mem _
  refine ⟨t, sr', ?_, ((State.Beside.setUart s i _).trans hscanx.beside).trans (hbeside.trans hscant.beside),
    hscant.mem.trans hscanx.mem, ?_, ?_, hflags' _ ?_⟩
  · rw [dispatchMoves_framing hidle hs, runMoves_cons, henter, Out.andThen_next, runMoves_append, hrunx,
      Out.andThen_next, runMoves_append, hframe, Out.andThen_next, hrunt]
  · rw [hscant.frame, State.captured, hxu, hxpar, hscanx.frame]
    rfl
  · refine hscant.unit.trans (hpassed'.trans ?_)
    rw [hy, hxu, hxpar]
    rfl
  · rw [hy, hxu]
    exact (flag_clearFlag_ne sr (by decide)).trans (hflags _ hr)

end

end Sys2Proof.Machine
end

section
/-! PROOFS. A burst framed (R185, R188, R189, R191): from the protocol's start state back to it, the frame in the
window. -/

namespace Sys2Proof.Machine

/-- A burst, its idle event and its dispatch have led from s to t: the protocol is ready again, and the frame is
recorded, signalled and in the window. -/
structure State.Framed (s : State) (bs : List Byte) (t : State) : Prop where
  ready    : t.FramingReady
  captured : t.frame.state = .frameCaptured
  length   : t.frame.len.toNat = min bs.length s.par.frameCap.toNat
  signal   : (t.uart s.par.frameUnit).sig.rx = true
  window   : s.mem.Circled t.mem s.par.winBase s.par.frameCap.toNat bs
  beside   : s.Beside s.par.frameUnit t

section
variable {s : State} (h : s.FramingReady)
include h

/-- The idle event asserts the framing unit's request (R212). -/
theorem State.FramingReady.burstEnded_irq (b : Byte) (n : Nat) :
    ((s.uart s.par.frameUnit).burstEnded b n).irq = true := by
  have hreq : requests (setFlag (s.uart s.par.frameUnit).sr .idle) (s.uart s.par.frameUnit).cfg.ie = true :=
    (requests_iff _ _).mpr ⟨.idle, flag_setFlag_same _ _, h.ie⟩
  have hc : (s.uart s.par.frameUnit).cfgv = true := (Bool.and_eq_true_iff.mp h.usable).1
  have hq : ((s.uart s.par.frameUnit).cfgv && !(s.uart s.par.frameUnit).masked &&
      requests (setFlag (s.uart s.par.frameUnit).sr .idle) (s.uart s.par.frameUnit).cfg.ie) = true := by
    rw [hc, h.masked, hreq]
    rfl
  exact hq

/-- The captured unit, its dispatcher Idle and no byte waiting, is ready for the next burst (R181, R185). -/
theorem State.FramingReady.of_captured {t : State} {b : Byte} {n : Nat} {sr : BitVec 7} {dsp : Dsp}
    (hpar : t.par = s.par) (hinit : t.frame.init = s.frame.init) (hf : t.handlerFault = s.handlerFault)
    (hu : t.uart s.par.frameUnit =
      { ((s.uart s.par.frameUnit).burstEnded b n).captured s.par.frameCap with sr := sr, dsp := dsp })
    (hr : flag sr .rxr = false) (hp : dsp.phase = .idle) : t.FramingReady := by
  rw [← hpar] at hu
  simp only [Uart.captured, Uart.burstEnded, Uart.received, Uart.setCh, PerDir.set_rx_rx] at hu
  exact
    { init := hinit.trans h.init
      usable := by rw [hu, hpar, Uart.usable]; exact h.usable
      dmaRx := by rw [hu, hpar, Uart.dmaRx]; exact h.dmaRx
      ie := by rw [hu, hpar]; exact h.ie
      masked := by rw [hu]
      phase := by rw [hu]; exact hp
      rxr := by rw [hu]; exact hr
      handler := by rw [hu, hpar]; exact h.handler
      others := fun k hk => by rw [hu, hpar]; exact h.others k hk
      dst := by rw [hu, hpar]; exact h.dst
      len := by rw [hu, hpar]; exact h.len
      circ := by rw [hu, hpar]; exact h.circ
      active := by rw [hu]
      cnt := by rw [hu]
      off := by rw [hu]
      live := by rw [hu, hpar]; exact h.live
      host := hf.trans h.host }

/-- A burst of up to 65535 bytes is framed (R185, R191). -/
theorem State.FramingReady.frames (hpar : s.par.wf = true) (hmem : s.mem.wf) (hv : s.WindowValid) {bs : List Byte}
    (hne : 1 ≤ bs.length) (hle : bs.length ≤ 65535) : ∃ s1 t b,
      runMoves (delivered s.par.frameUnit bs ++ [.idleEvent s.par.frameUnit]) s = .next s1 ∧
      s1.uart s.par.frameUnit = (s.uart s.par.frameUnit).burstEnded b bs.length ∧
      runMoves (dispatchMoves s.par.frameUnit (s1.uart s.par.frameUnit)) s1 = .next t ∧ s.Framed bs t := by
  obtain ⟨m, b, hfill, hburst⟩ := h.burst_run hpar hv hmem hne
  have hunit := s.burstEnded_uart (m := m) b bs.length
  have hcnt : ((s.uart s.par.frameUnit).burstEnded b bs.length).ch.rx.cnt =
      s.par.frameCap - BitVec.ofNat 16 bs.length := by
    rw [← h.cnt]
    rfl
  obtain ⟨t, sr, hrun, hbeside, htmem, hframe, htu, hrxr⟩ := framingDispatch_run hunit.symm h.phase
    (h.burstEnded_irq b _) (flag_setFlag_same _ _) ((flag_setFlag_ne _ (by decide)).trans h.rxr) h.handler h.others
    h.host
  have hb : s.Beside s.par.frameUnit t := (State.Beside.write s _ _ m s.frame).trans hbeside
  refine ⟨_, t, b, hburst, hunit, by rw [hunit]; exact hrun,
    h.of_captured hb.par (by rw [hframe]; rfl) hb.handlerFault htu hrxr rfl, by rw [hframe]; rfl, ?_,
    by rw [htu]; rfl, by rw [htmem]; exact hfill, hb⟩
  rw [hframe, hcnt]
  exact capturedLength_sub_ofNat s.par.frameCap (by omega)

end

/-- Settles O43: `State.FramingReady.frames`, its window read by `Memory.Circled`. -/
theorem capturedLengthIsTheClampedCount : Obligations.CapturedLengthIsTheClampedCount := by
  intro s bs h hpar hmem hv hne hle
  obtain ⟨s1, t, -, hburst, -, hrun, ht⟩ := h.frames hpar hmem hv hne hle
  exact ⟨s1, t, hburst, hrun, ht.captured, ht.length, ht.signal, ht.ready, ht.beside.par, ht.window.wf, ht.window.holds,
    ht.window.holdsBytes, ht.window.outside, ht.beside.units, ht.beside.fg⟩

/-- Settles O44: the first frame leaves the protocol ready, so the second is framed as the first was. -/
theorem frameLengthsAreNotCumulative : Obligations.FrameLengthsAreNotCumulative := by
  intro s bs cs h hpar hmem hv hbs hbs' hcs hcs'
  have hcap := s.par.frameCap.isLt
  obtain ⟨s1, t1, -, hburst1, -, hrun1, ht1⟩ := h.frames hpar hmem hv hbs (by omega)
  have htpar := ht1.beside.par
  obtain ⟨s2, t2, -, hburst2, -, hrun2, ht2⟩ := ht1.ready.frames (bs := cs) (by rw [htpar]; exact hpar) ht1.window.wf
    (by rw [State.WindowValid, htpar]; exact hv) hcs (by omega)
  obtain ⟨-, hcaptured, hlen, hsignal, hwindow, -⟩ := ht2
  rw [htpar] at hburst2 hrun2 hlen hsignal hwindow
  exact ⟨s1, t1, s2, t2, hburst1, hrun1, ht1.length.trans (min_eq_left hbs'), hburst2, hrun2,
    hlen.trans (min_eq_left hcs'), hcaptured, hsignal, hwindow.holdsBytes hcs'⟩

end Sys2Proof.Machine
end

section
/-! PROOFS. From reset to the caller's buffer (R186): FINIT after any reset, a burst framed, and FRECV. -/

namespace Sys2Proof.Machine

/-! ### An operation with its operand -/

theorem repeated_singleton (n : Nat) (m : Move) : repeated n [m] = List.replicate n m :=
  List.flatten_replicate_singleton

/-- The machine once the host has written A[0] and presented a command word (R26, R75). -/
def State.presenting (s : State) (v w : Word) : State := { s with a := { s.a with q0 := v }, cmd := w }

theorem State.foregroundFree.presents {s : State} (h : s.foregroundFree) {i : Instr} (hwf : i.wf = true) (v : Word) :
    runMoves [.hostOperand 0 v, .hostCommand (encode i)] s = exec i (s.presenting v (encode i)) := by
  have hm : s.hostMayAct = true := State.hostContext.mayAct (.inl h)
  have hoperand : agentStep (.hostOperand 0 v) s = .next { s with a := { s.a with q0 := v } } := if_pos hm
  have hcommand : agentStep (.hostCommand (encode i)) { s with a := { s.a with q0 := v } } =
      exec i (s.presenting v (encode i)) := presentCommand_legal (decode_encode hwf) _
  rw [runMoves_cons, hoperand, Out.andThen_next, runMoves_cons, hcommand]
  cases exec i (s.presenting v (encode i)) <;> rfl

/-! ### FINIT after reset -/

theorem State.AfterReset.foregroundFree {s : State} (h : s.AfterReset) : s.foregroundFree :=
  ⟨s.allIdle_iff.mpr fun i => (h.units i).phase, h.op, h.fault.1⟩

theorem State.afterFinit_uart (s : State) (brr : Half) :
    (s.afterFinit brr).uart s.par.frameUnit = s.finitUart brr :=
  s.setFraming_uart _

/-- FINIT's success leaves the foreground free (R171). -/
theorem State.afterFinit_foregroundFree {s : State} (hf : s.foregroundFree) (brr : Half) :
    (s.afterFinit brr).foregroundFree := by
  obtain ⟨hidle, hop, hfault⟩ := hf
  refine ⟨(State.allIdle_iff _).mpr fun j => ?_, hop, hfault⟩
  by_cases hj : j = s.par.frameUnit
  · rw [hj, State.afterFinit_uart]
    exact s.allIdle_iff.mp hidle _
  · have hother : (s.afterFinit brr).uart j = s.uart j := State.uart_setUart_ne s _ hj
    rw [hother]
    exact s.allIdle_iff.mp hidle j

/-- FINIT's success makes the protocol ready where nothing is masked, stuck or already framed (R171, R185). -/
theorem State.afterFinit_ready {s : State} (hf : s.foregroundFree) (hmask : (s.uart s.par.frameUnit).masked = false)
    (hlive : (s.uart s.par.frameUnit).chFault.rx = none)
    (hslots : ∀ k, (s.uart s.par.frameUnit).hslot.get k ≠ .frame) (hhost : s.handlerFault = none) (brr : Half) :
    (s.afterFinit brr).FramingReady := by
  have hu : (s.afterFinit brr).uart (s.afterFinit brr).par.frameUnit = s.finitUart brr := s.afterFinit_uart brr
  have hcfg : (s.finitUart brr).cfg = ⟨s.a.q0, .halfDuplex, .none, .one, 0x10#8, 3#2⟩ := unpackOptions_framing _
  exact
    { init := rfl
      usable := by rw [hu, Uart.usable, hcfg]; rfl
      dmaRx := by rw [hu, Uart.dmaRx, hcfg]; exact (by decide : (3#2 : BitVec 2).getLsbD 0 = true)
      ie := by rw [hu, hcfg]; exact (by decide : enables 0x10#8 .idle = true)
      masked := by rw [hu]; exact hmask
      phase := by rw [hu]; exact s.allIdle_iff.mp hf.1 _
      rxr := by rw [hu]; exact flag_srStart _
      handler := by rw [hu]; rfl
      others := fun k hk => by
        rw [hu]
        change ((s.uart s.par.frameUnit).hslot.set .idle .frame).get k ≠ .frame
        rw [PerKind.get_set, if_neg hk]
        exact hslots k
      dst := by rw [hu]; rfl
      len := by rw [hu]; rfl
      circ := by rw [hu]; rfl
      active := by rw [hu]; rfl
      cnt := by rw [hu]; rfl
      off := by rw [hu]; rfl
      live := by rw [hu]; exact hlive
      host := hhost }

/-- Where the idle-line slot alone holds a handler, a dispatch that frames is the dispatcher's own fourteen steps. -/
theorem dispatchMoves_framing_alone {i : Unit6} {u : Uart} (hidle : flag u.sr .idle = true)
    (hs : u.hslot.get .idle = .frame) (hn : ∀ k, k ≠ .idle → u.hslot.get k = .empty) :
    dispatchMoves i u = List.replicate 14 (.dispatcher i) := by
  have hempty : ∀ k, k ≠ .idle → kindMoves i u k = [.dispatcher i] := fun k hk => by simp [kindMoves, hn k hk]
  rw [dispatchMoves_framing hidle hs]
  simp [hempty]

/-- FINIT after reset, at a rate the baud solver solves (R171, R186). -/
theorem State.AfterReset.finit_run {s : State} (h : s.AfterReset) {baud : Word} {x : Solution}
    (hx : solveBaud (s.par.pclk.get s.par.frameUnit).toNat baud.toNat = some x)
    (hsup : unpackOptions baud framingOptions ∉ s.par.unsupported) :
    ∃ t, runMoves [.hostOperand 0 baud, .hostCommand (encode .finit)] s = .next t ∧ t.FramingReady ∧
      t.foregroundFree ∧ t.par = s.par ∧ t.mem = s.mem ∧
      ∀ k, k ≠ .idle → (t.uart s.par.frameUnit).hslot.get k = .empty := by
  have hunit := h.units s.par.frameUnit
  have hfree := h.foregroundFree
  obtain ⟨brr, hbrr⟩ := configDivisor_framing hx
  obtain ⟨p, hp⟩ : ∃ p, p = s.presenting baud (encode .finit) := ⟨_, rfl⟩
  have hppar : p.par = s.par := by rw [hp]; rfl
  have hpu : ∀ j, p.uart j = s.uart j := fun j => by rw [hp]; rfl
  have hpfree : p.foregroundFree := by rw [hp]; exact hfree
  have hexec : exec .finit p = .next (p.afterFinit brr) := by
    refine exec_finit_bound hpfree ?_ ?_
    · rw [hpu, hppar, hp]
      exact bindUart_framing hunit.cfgv hsup hx hbrr
    · rw [hpu, hppar, Chan.outstanding, Bool.or_eq_false_iff]
      exact ⟨hunit.active .rx, hunit.done .rx⟩
  refine ⟨p.afterFinit brr, ?_, ?_, State.afterFinit_foregroundFree hpfree brr, hppar, ?_, fun k hk => ?_⟩
  · rw [hfree.presents rfl, ← hp, hexec]
  · refine State.afterFinit_ready hpfree ?_ ?_ (fun k => ?_) ?_ brr
    · rw [hppar, hpu]; exact hunit.masked
    · rw [hppar, hpu]; exact hunit.fault .rx
    · rw [hppar, hpu, hunit.slots k]; nofun
    · rw [hp]; exact h.fault.2
  · rw [hp]; rfl
  · rw [← hppar, State.afterFinit_uart]
    change ((p.uart p.par.frameUnit).hslot.set .idle .frame).get k = .empty
    rw [PerKind.get_set, if_neg hk, hppar, hpu]
    exact hunit.slots k

/-! ### The frame delivered -/

/-- A buffer that holds a list of bytes, read back. -/
theorem bufferPrefix_of_holdsBytes {m : Memory} {buf : Word} {bs : List Byte} (h : holdsBytes m buf bs) :
    bufferPrefix m buf bs.length = bs := by
  refine List.ext_getElem (bufferPrefix_length m buf _) fun j _ hj => ?_
  simp [bufferPrefix, h j hj]

/-- The foreground is free again once a burst has been framed (R185). -/
theorem State.Framed.foregroundFree {s t : State} {bs : List Byte} (h : s.Framed bs t) (hs : s.foregroundFree) :
    t.foregroundFree := by
  refine ⟨t.allIdle_iff.mpr fun j => ?_, by rw [h.beside.fg]; exact hs.2.1, h.beside.fgFault.trans hs.2.2⟩
  by_cases hj : j = s.par.frameUnit
  · have hp := h.ready.phase
    rwa [h.beside.par, ← hj] at hp
  · rw [h.beside.units j hj]
    exact s.allIdle_iff.mp hs.1 j

/-- FRECV of a framed burst that fits the window, from the write of A[0] to its return (R173, R186). -/
theorem State.Framed.delivers {s t : State} {bs : List Byte} (h : s.Framed bs t) (hs : s.foregroundFree)
    (h2 : 2 ≤ bs.length) (hle : bs.length ≤ s.par.frameCap.toNat) (hv : s.WindowValid) {buf : Word}
    (hbuf : bufferValid s.par buf (BitVec.ofNat 16 bs.length))
    (hapart : s.windowApart buf (BitVec.ofNat 16 bs.length)) :
    ∃ x, runMoves ([.hostOperand 0 buf, .hostCommand (encode .frecv)] ++ List.replicate (bs.length + 3) .foreground) t =
        .next x ∧
      x.r.q0.toNat = bs.length ∧ holdsBytes x.mem buf bs ∧ x.fg.op = none ∧ x.frame.state = .armed ∧
      (x.uart s.par.frameUnit).sig.rx = false := by
  have hpar := h.beside.par
  have hlen : t.frame.len.toNat = bs.length := h.length.trans (min_eq_left hle)
  have hofNat : BitVec.ofNat 16 bs.length = t.frame.len := by rw [← hlen, BitVec.ofNat_toNat, BitVec.setWidth_eq]
  have hwin : bufferValid s.par s.par.winBase t.frame.len := fun j hj => hv j (by omega)
  have hsignal := h.signal
  rw [hofNat] at hbuf hapart
  rw [← hpar] at hbuf hwin hsignal
  obtain ⟨hdeliver, -⟩ := frecvDeliversTheFrame
  obtain ⟨x, hrun, hr, hop, -, hholds, -, hframe, -, huarts⟩ := hdeliver (t.presenting buf (encode .frecv))
    (h.foregroundFree hs) h.window.wf h.ready.init hsignal (hlen.symm ▸ h2) hwin hbuf
    (by rw [State.windowApart, ← hpar] at hapart; exact hapart)
  have hbytes : bufferBytes t.mem t.par.winBase t.frame.len = bs := by
    rw [bufferBytes_eq_prefix, hlen, hpar]
    exact bufferPrefix_of_holdsBytes (h.window.holdsBytes hle)
  refine ⟨x, ?_, ?_, ?_, hop, ?_, ?_⟩
  · rw [runMoves_append, (h.foregroundFree hs).presents rfl, ← hlen, ← repeated_singleton]
    exact hrun
  · rw [hr]
    change (t.frame.len.setWidth 32).toNat = _
    rw [BitVec.toNat_setWidth_of_le (by decide), hlen]
  · rw [← hbytes]
    exact hholds
  · rw [hframe]
  · rw [← hpar, State.uart, huarts]
    exact congrArg (fun u : Uart => u.sig.rx) (PerUnit.get_set_same _ _ _)

/-- Settles O46: FINIT after reset, the burst framed, and the frame delivered, one run after the other. -/
theorem peerFrameReachesTheCallersBuffer : Obligations.PeerFrameReachesTheCallersBuffer := by
  intro s baud buf bs x hreset hpar hmem hv hx hsup h2 hle hbuf hapart
  have hcap := s.par.frameCap.isLt
  obtain ⟨t1, hfinit, hready, hfree, htpar, htmem, hslots⟩ := hreset.finit_run hx hsup
  obtain ⟨s2, t2, b, hburst, hs2u, hdispatch, hframed⟩ := hready.frames (bs := bs) (by rwa [htpar]) (by rwa [htmem])
    (by rw [State.WindowValid, htpar]; exact hv) (by omega) (by omega)
  have hmoves := dispatchMoves_framing_alone (i := t1.par.frameUnit) (u := s2.uart t1.par.frameUnit)
    (by rw [hs2u]; exact flag_setFlag_same _ _) (by rw [hs2u]; exact hready.handler)
    (fun k hk => by rw [hs2u, htpar]; exact hslots k hk)
  obtain ⟨t3, hdeliver, hr, hholds, hop, harmed, hsignal⟩ := hframed.delivers hfree h2 (by rwa [htpar])
    (by rw [State.WindowValid, htpar]; exact hv) (buf := buf) (by rwa [htpar]) (fun j k hj hk => by
      rw [htpar]
      rw [Half.toNat_ofNat_of_le hle] at hj hk
      exact hapart j k hj hk)
  rw [hmoves] at hdispatch
  rw [htpar] at hburst hdispatch hsignal
  refine ⟨t3, ?_, hr, hholds, hop, harmed, hsignal⟩
  rw [List.append_assoc, runMoves_append, runMoves_append, List.append_assoc, runMoves_append, hfinit, Out.andThen_next,
    hburst, Out.andThen_next, hdispatch, Out.andThen_next, hdeliver]

end Sys2Proof.Machine
end

section
/-! PROOFS. The line agents (R196, R198 to R205): the five events besides the receive event, the common guard, and what
a line agent can write at all. -/

namespace Sys2Proof.Machine

/-! ### The events -/

section
variable {s : State} {i : Unit6}

/-- IdleEvent after a byte (R198). -/
theorem idleEvent_raises (hu : (s.uart i).usable = true) (hr : (s.uart i).rxact = true) :
    agentStep (.idleEvent i) s = .next (s.setUart i { (s.uart i).raiseFlag .idle with rxact := false }) :=
  if_pos (by rw [hu, hr]; rfl)

/-- IdleEvent without a byte since the last one (R198). -/
theorem idleEvent_refused (hr : (s.uart i).rxact = false) :
    agentStep (.idleEvent i) s = .refused (.notEnabled (.idleEvent i)) :=
  if_neg (by simp [hr])

/-- TxShift with no byte waiting (R199). -/
theorem txShift_refused (hf : flag (s.uart i).sr .txe = true) :
    agentStep (.txShift i) s = .refused (.notEnabled (.txShift i)) :=
  if_neg (by simp [hf])

/-- R196: no step of the line agent of an unusable unit is enabled. -/
theorem lineStep_refused {m : Move} (hm : m.lineUnit = some i) (hu : (s.uart i).usable = false) :
    agentStep m s = .refused (.notEnabled m) := by
  cases m <;> cases hm
  case rxByte b => exact if_pos (by rw [hu]; rfl)
  all_goals exact if_neg (by simp [hu])

end

/-- Settles O33: the step of each event, its status read by `flag_setFlag`. -/
theorem lineEventsSetTheirFlags : Obligations.LineEventsSetTheirFlags := by
  refine ⟨fun s i hu => ⟨fun hr => ?idle, idleEvent_refused, fun hf => ?shift, txShift_refused, fun m k hmk => ?raise⟩,
    fun s m i hm h => lineStep_refused hm (Uart.usable_eq_false_iff.mpr h)⟩
  case idle => exact ⟨_, flag_setFlag _ _, idleEvent_raises hu hr⟩
  case shift => exact ⟨((s.uart i).sent (s.uart i).tdr).sr, Uart.flag_sent, txShift_sends hu hf⟩
  case raise =>
    refine ⟨setFlag (s.uart i).sr k, flag_setFlag _ _, ?_⟩
    simp only [List.mem_cons, List.not_mem_nil, or_false, Prod.mk.injEq] at hmk
    obtain ⟨rfl, rfl⟩ | ⟨rfl, rfl⟩ | ⟨rfl, rfl⟩ := hmk
    · exact if_pos hu
    · exact if_pos hu
    · exact if_pos hu

/-! ### What a line agent can write -/

/-- What a step of unit i's line agent can write (R205): of the unit its flags, its receive data register, RXACT, its
receive channel and its channels' fault records; and memory and the trace. -/
structure LineWrites where
  sr      : BitVec 7
  rdr     : Byte
  rxact   : Bool
  rx      : Chan
  chFault : PerDir (Option BusFault)
  mem     : Memory
  trace   : List Ev

/-- A unit after the writes of its line agent. -/
def LineWrites.unit (w : LineWrites) (u : Uart) : Uart :=
  { u with sr := w.sr, rdr := w.rdr, rxact := w.rxact, ch := { u.ch with rx := w.rx }, chFault := w.chFault }

/-- A state after the writes of unit i's line agent. -/
def LineWrites.apply (w : LineWrites) (i : Unit6) (s : State) : State :=
  { s.setUart i (w.unit (s.uart i)) with mem := w.mem, trace := w.trace }

/-- A state is another after writes of unit i's line agent that clear no flag but rxr and leave memory and the receive
channel alone outside the receive event (R205). -/
def LineEffect (i : Unit6) (m : Move) (s t : State) : Prop :=
  ∃ w : LineWrites, t = w.apply i s ∧
    (∀ k, k ≠ .rxr → flag (s.uart i).sr k = true → flag w.sr k = true) ∧
    ((∀ b, m ≠ .rxByte i b) → w.mem = s.mem ∧ w.rx = (s.uart i).ch.rx)

/-- A set flag stays set when one is set. -/
theorem flag_setFlag_of_set {sr : BitVec 7} {j k : EventKind} (h : flag sr k = true) :
    flag (setFlag sr j) k = true := by
  rw [flag_setFlag, h, Bool.or_true]

/-- The receive service clears no flag but rxr (R133). -/
theorem Uart.Serviced.flag_eq {p : Params} {u v : Uart} {k : EventKind} (h : u.Serviced p v) (hk : k ≠ .rxr) :
    flag v.sr k = flag u.sr k := by
  obtain ⟨-, rfl⟩ | ⟨-, rfl⟩ | ⟨-, f, -, rfl⟩ := h
  · rfl
  · exact flag_clearFlag_ne u.sr hk
  · rfl

section
variable {s t : State} {i : Unit6} {m : Move}

/-- An event that sets flags, and may write RXACT and the trace. -/
theorem LineEffect.of_flags {sr : BitVec 7} (h : ∀ k, flag (s.uart i).sr k = true → flag sr k = true) (rxact : Bool)
    (trace : List Ev) :
    LineEffect i m s { s.setUart i { s.uart i with sr := sr, rxact := rxact } with trace := trace } :=
  ⟨⟨sr, (s.uart i).rdr, rxact, (s.uart i).ch.rx, (s.uart i).chFault, s.mem, trace⟩, rfl, fun k _ => h k,
    fun _ => ⟨rfl, rfl⟩⟩

/-- A byte latched, and the receive service (R197). -/
theorem LineEffect.of_serviced {p : Params} {b : Byte} {v : Uart}
    (hv : ({ s.uart i with rxact := true, rdr := b, sr := setFlag (s.uart i).sr .rxr } : Uart).Serviced p v)
    (mem : Memory) : LineEffect i (.rxByte i b) s { s.setUart i v with mem := mem } := by
  have hflags := fun k hk => hv.flag_eq (k := k) hk
  obtain ⟨sr, rx, f, rfl⟩ := hv.eq_update
  exact ⟨⟨sr, b, true, rx, f, mem, s.trace⟩, rfl, fun k hk h => (hflags k hk).trans (flag_setFlag_of_set h),
    fun hb => absurd rfl (hb b)⟩

theorem rxByteStep_lineEffect {b : Byte} (h : rxByteStep i b s = .next t) : LineEffect i (.rxByte i b) s t := by
  simp only [rxByteStep] at h
  split_ifs at h
  · cases h
  · cases h
    exact .of_flags (fun _ hk => hk) true s.trace
  · obtain ⟨v, mem, hv, rfl⟩ := rxServiceStep_unit h
    rw [State.uart_setUart_same] at hv
    rw [State.setUart_setUart]
    exact .of_serviced hv mem

/-- Every step of a line agent. -/
theorem lineStep_effect (hm : m.lineUnit = some i) (h : agentStep m s = .next t) : LineEffect i m s t := by
  cases m <;> cases hm
  case rxByte b => exact rxByteStep_lineEffect h
  all_goals
    simp only [agentStep, idleEventStep, txShiftStep, ctsEventStep, breakEventStep, parityEventStep] at h
    split at h <;> cases h
  case idleEvent => exact .of_flags (fun _ => flag_setFlag_of_set) false s.trace
  case txShift => exact .of_flags (fun _ hk => flag_setFlag_of_set (flag_setFlag_of_set hk)) _ _
  all_goals exact .of_flags (fun _ => flag_setFlag_of_set) _ s.trace

end

/-- Settles O34: `LineWrites` has no field for what a line agent never writes. -/
theorem lineAgentWritesOnlyItsOwn : Obligations.LineAgentWritesOnlyItsOwn := by
  intro s t m i hm h
  obtain ⟨w, rfl, hflags, hrx⟩ := lineStep_effect hm h
  have hunit : (w.apply i s).uart i = w.unit (s.uart i) := State.uart_setUart_same s i _
  rw [hunit]
  refine ⟨rfl, rfl, rfl, rfl, rfl, rfl, rfl, fun j hj => State.uart_setUart_ne s _ hj, rfl, fun hb => ?_,
    fun k hk => hflags k ?_⟩
  · obtain ⟨hmem, hch⟩ := hrx hb
    exact ⟨hmem, by rw [LineWrites.unit, hch]⟩
  · rintro rfl
    exact absurd hk (by decide)

end Sys2Proof.Machine
end

section
/-! PROOFS. A whole dispatch without the framing handler (R204, R213 to R221): which flags the scan of a list of kinds
leaves, and the run from trap entry back to Idle. -/

namespace Sys2Proof.Machine

/-- The scan keeps the snapshot (R213). -/
theorem Uart.passed_snap (u : Uart) (k : EventKind) : (u.passed k).dsp.snap = u.dsp.snap := by
  obtain ⟨sr, hpassed, -⟩ := u.passed_eq k
  rw [hpassed]

/-- Past kind k, its flag is clear if the snapshot holds it, txe excepted; no other flag has changed (R218, R219). -/
theorem Uart.flag_passed (u : Uart) (k j : EventKind) :
    flag (u.passed k).sr j = (flag u.sr j && !(decide (j = k ∧ j ≠ .txe) && flag u.dsp.snap j)) := by
  unfold Uart.passed
  obtain rfl | hj := eq_or_ne j k
  · cases hs : flag u.dsp.snap j with
    | false => simp
    | true => by_cases ht : j = .txe <;> simp [ht]
  · have hclear : flag (u.clearKind k).sr j = flag u.sr j := by
      rw [Uart.clearKind_sr]
      split
      · rfl
      · exact flag_clearFlag_ne _ hj
    split <;> simp [hj, hclear, -Uart.clearKind_sr]

/-- Past a list of kinds, the flags of those in the snapshot are clear, txe excepted; no other flag has changed. -/
theorem Uart.flag_passedAll (u : Uart) (ks : List EventKind) (j : EventKind) :
    flag (u.passedAll ks).sr j = (flag u.sr j && !(decide (j ∈ ks ∧ j ≠ .txe) && flag u.dsp.snap j)) := by
  induction ks generalizing u with
  | nil => simp [Uart.passedAll]
  | cons k ks ih =>
    refine (ih (u.passed k)).trans ?_
    rw [Uart.flag_passed, Uart.passed_snap]
    obtain rfl | hk := eq_or_ne j k
    · by_cases hks : j ∈ ks <;> simp [hks]
    · simp [hk]

/-- The unit once its whole dispatch has run: every flag set at entry is clear but txe, and the dispatcher is Idle. -/
theorem Uart.passedAll_allKinds (u : Uart) : ∃ sr,
    u.dispatchEnter.passedAll allKinds = { u with sr := sr, dsp := ⟨.idle, u.sr, u.dsp.flen⟩ } ∧
      ∀ k, flag sr k = (flag u.sr k && decide (k = .txe)) := by
  obtain ⟨sr, hall, -⟩ := u.dispatchEnter.passedAll_eq [.cts, .brk, .txe, .txc, .rxr, .idle] .pe
  refine ⟨sr, hall, fun k => ?_⟩
  have hmem : k ∈ allKinds := by cases k <;> decide
  calc flag sr k = flag (u.dispatchEnter.passedAll allKinds).sr k := congrArg (fun v => flag v.sr k) hall.symm
    _ = (flag u.sr k && !(decide (k ∈ allKinds ∧ k ≠ .txe) && flag u.sr k)) := Uart.flag_passedAll _ _ _
    _ = (flag u.sr k && decide (k = .txe)) := by by_cases hk : k = .txe <;> simp [hk, hmem]

/-- Settles O39: trap entry, then the scan of all kinds by `kindMoves_run_chain`. -/
theorem dispatchServicesEveryFlagInOrder : Obligations.DispatchServicesEveryFlagInOrder := by
  intro s i hf hp hq hn
  have hx : (s.setUart i (s.uart i).dispatchEnter).uart i = (s.uart i).dispatchEnter := State.uart_setUart_same s i _
  obtain ⟨t, hrun, hscan⟩ := kindMoves_run_chain (s := s.setUart i (s.uart i).dispatchEnter) (i := i) (u := s.uart i)
    (k := .cts) (ks := [.brk, .txe, .txc, .rxr, .idle, .pe]) (by decide) (by rw [hx]; rfl) (by rw [hx]; rfl)
    (by rw [hx]; rfl) (fun k _ => hn k) hf
  obtain ⟨sr, hunit, hflags⟩ := (s.uart i).passedAll_allKinds
  have hbeside := (State.Beside.setUart s i _).trans hscan.beside
  refine ⟨t, sr, ?_, hflags, ?_, hscan.trace, hbeside.units, hscan.mem, hscan.frame, hbeside.fg, hbeside.a,
    hbeside.par⟩
  · rw [dispatchMoves, runMoves_cons, dispatcher_enter hp hq, Out.andThen_next]
    exact hrun
  · rw [hscan.unit, hx]
    exact hunit

end Sys2Proof.Machine
end

section
/-! PROOFS. A dispatcher's own steps and HRET (R212 to R220, R224): the interrupt request, trap entry, the scan of each
kind by its slot, and the end of an external handler. -/

namespace Sys2Proof.Machine

/-! ### The interrupt request and trap entry -/

/-- A statement about some event kind, kind by kind in the servicing order. -/
theorem EventKind.exists_iff {p : EventKind → Prop} :
    (∃ k, p k) ↔ p .cts ∨ p .brk ∨ p .txe ∨ p .txc ∨ p .rxr ∨ p .idle ∨ p .pe := by
  constructor
  · rintro ⟨k, hk⟩
    cases k <;> simp [hk]
  · rintro (h | h | h | h | h | h | h) <;> exact ⟨_, h⟩

/-- The request is a level: bound, not masked, and some enabled flag set (R212). -/
theorem Uart.irq_iff (u : Uart) : u.irq = true ↔
    u.cfgv = true ∧ u.masked = false ∧ ∃ k, flag u.sr k = true ∧ enables u.cfg.ie k = true := by
  rw [← requests_iff, Uart.irq, Bool.and_eq_true, Bool.and_eq_true, Bool.not_eq_true', and_assoc]

section
variable {s : State} {i : Unit6}

theorem dispatcher_noRequest (hp : (s.uart i).dsp.phase = .idle) (hq : (s.uart i).irq = false) :
    agentStep (.dispatcher i) s = .refused (.notEnabled (.dispatcher i)) := by
  simp [agentStep, dispatcherStep, hp, hq]

theorem dispatcher_inHandler {k : EventKind} (hp : (s.uart i).dsp.phase = .inHandler k) :
    agentStep (.dispatcher i) s = .refused (.notEnabled (.dispatcher i)) := by
  simp only [agentStep, dispatcherStep, hp]

end

/-- Settles O36: the request by `Uart.irq_iff`, trap entry by `dispatcher_enter`. -/
theorem dispatchEnterTakesTheSnapshot : Obligations.DispatchEnterTakesTheSnapshot := by
  refine ⟨fun u => ?_, fun s i => ⟨dispatcher_enter, ?_⟩⟩
  · rw [Uart.irq_iff, EventKind.exists_iff]
    rfl
  · rintro (⟨hp, hq⟩ | ⟨k, hp⟩)
    · exact dispatcher_noRequest hp hq
    · exact dispatcher_inHandler hp

/-! ### A kind finished -/

/-- The phases that follow the kinds in the fixed order (R214). -/
theorem nextPhase_of_mem_order {k : EventKind} {next : DspPhase}
    (h : (k, next) ∈ allKinds.map fun j => (j, nextPhase j)) : next = nextPhase k := by
  obtain ⟨j, -, hj⟩ := List.mem_map.mp h
  cases hj
  rfl

/-- Clear takes the flag of its kind, unless that is txe, and no other (R219). -/
theorem Uart.flag_clearKind (u : Uart) (k j : EventKind) :
    flag (u.clearKind k).sr j = (flag u.sr j && decide (j ≠ k ∨ k = .txe)) := by
  rw [Uart.clearKind_sr]
  split
  · next hk => simp [hk]
  · next hk => simp [flag_clearFlag, hk, Bool.and_comm]

/-- Finish writes the flags and the phase, and nothing else (R218). -/
theorem Uart.finish_eq (u : Uart) (k : EventKind) :
    u.finish k = { u with sr := (u.clearKind k).sr, dsp := { u.dsp with phase := nextPhase k } } := by
  unfold Uart.finish Uart.clearKind
  split <;> rfl

/-- Settles O37: one lemma for each answer of the scan step, the cleared flags by `Uart.flag_clearKind`. -/
theorem scanServicesTheSnapshotInOrder : Obligations.ScanServicesTheSnapshotInOrder := by
  intro s i k h next hp hnext
  obtain rfl := nextPhase_of_mem_order hnext
  rw [dispatcher_scan hp]
  refine ⟨scanStep_absent, fun hf hs => ?_, scanStep_frame, scanStep_ext⟩
  refine ⟨_, Uart.flag_clearKind _ k, ?_⟩
  rw [scanStep_empty hf hs, Uart.finish_eq]

/-! ### HRET -/

section
variable {s : State} (h : s.hostContext) {i : Unit6}
include h

/-- Where the host may act and some dispatcher is in a handler, the interrupt context is the one not stuck (R94). -/
theorem State.hostContext.handlerFault {k : EventKind} (hp : (s.uart i).dsp.phase = .inHandler k) :
    s.handlerFault = none := by
  obtain ⟨hidle, -⟩ | ⟨-, -, hf⟩ := h
  · cases hp.symm.trans (s.allIdle_iff.mp hidle i)
  · exact hf

/-- HRET of a unit whose dispatcher is in no handler (R224). -/
theorem exec_hret_outside (hp : ∀ k, (s.uart i).dsp.phase ≠ .inHandler k) :
    exec (.hret (unitNumber i)) s = .next (s.raise .hret) := by
  simp only [exec, execHret, acceptAny_context h, unitOf_unitNumber]
  split
  · next k hk => exact (hp k hk).elim
  all_goals rfl

end

/-- Settles O38: in a handler by `exec_hret`, elsewhere by `exec_hret_outside`, of no unit by `exec_namesNoUnit`. -/
theorem hretEndsTheHandler : Obligations.HretEndsTheHandler := by
  intro s h
  refine ⟨fun n => decode_encode (i := .hret n) rfl, fun i k next hp hnext => ?_, fun i => exec_hret_outside h,
    fun n => exec_namesNoUnit rfl rfl (h.accepts rfl)⟩
  obtain rfl := nextPhase_of_mem_order hnext
  refine ⟨_, Uart.flag_clearKind _ k, ?_⟩
  rw [exec_hret hp (h.handlerFault hp), Uart.finish_eq]

end Sys2Proof.Machine
end

section
/-! PROOFS. The state after reset (R56, R245, R246): every unit is unbound and nothing is in progress, so the machine is
quiescent and no agent but the host has a step. -/

namespace Sys2Proof.Machine

/-! ### A unit after reset -/

namespace Uart.AfterReset

variable {u : Uart} (h : u.AfterReset)
include h

theorem irq : u.irq = false := by
  simp [Uart.irq, h.cfgv]

theorem usable : u.usable = false :=
  Uart.usable_eq_false_iff.mpr (.inl h.cfgv)

theorem txMoveEnabled : u.txMoveEnabled = false := by
  have hactive : u.ch.tx.active = false := h.active .tx
  simp [Uart.txMoveEnabled, hactive]

theorem txShiftEnabled : u.txShiftEnabled = false := by
  simp [Uart.txShiftEnabled, h.usable]

end Uart.AfterReset

/-! ### Who moves in a quiescent state -/

/-- The foreground has no step while no operation is in progress. -/
theorem foregroundStep_noOp {s : State} (hop : s.fg.op = none) :
    foregroundStep s = .refused (.notEnabled .foreground) := by
  simp [foregroundStep, hop, noForegroundStep]

/-- In a quiescent state no agent moves but the host and the line agents (R250). -/
theorem State.Quiescent.mover {s t : State} {m : Move} (hq : s.Quiescent) (h : agentStep m s = .next t) :
    m.isHost = true ∨ ∃ i, m.lineUnit = some i := by
  cases m with
  | hostOperand | hostStore | hostCommand => exact .inl rfl
  | foreground => cases (foregroundStep_noOp hq.op).symm.trans h
  | dispatcher i => cases (dispatcher_noRequest (hq.idle i) (hq.request i)).symm.trans h
  | txMove i => cases (txMoveStep_disabled (Bool.eq_false_iff.mp (hq.move i))).symm.trans h
  | dmaDone i d => cases (dmaDoneStep_disabled (hq.done i d)).symm.trans h
  | rxByte i | idleEvent i | txShift i | ctsEvent i | breakEvent i | parityEvent i => exact .inr ⟨i, rfl⟩

/-! ### The machine after reset -/

section
variable {s : State} (h : s.AfterReset)
include h

theorem State.AfterReset.not_faulty : ¬ s.faulty := by
  rintro (hf | hf | ⟨i, d, hf⟩)
  · exact hf h.fault.1
  · exact hf h.fault.2
  · exact hf ((h.units i).fault d)

theorem State.AfterReset.quiescent : s.Quiescent where
  op := h.op
  idle i := (h.units i).phase
  request i := (h.units i).irq
  done i := (h.units i).done
  move i := (h.units i).txMoveEnabled
  shift i := (h.units i).txShiftEnabled
  sound := h.not_faulty

/-- R246: the other agents of a quiescent state, the line agents, have no step of an unbound unit (R196). -/
theorem State.AfterReset.mover_isHost {t : State} {m : Move} (ht : agentStep m s = .next t) : m.isHost = true := by
  obtain hhost | ⟨i, hline⟩ := h.quiescent.mover ht
  · exact hhost
  · cases (lineStep_refused hline (h.units i).usable).symm.trans ht

end

/-- Settles O60: the machine after reset is quiescent, and no line agent has a step of an unbound unit. -/
theorem afterResetOnlyTheHostCanMove : Obligations.AfterResetOnlyTheHostCanMove :=
  ⟨State.resetWith_afterReset,
    fun _ h => ⟨h.foregroundFree, fun i => (h.units i).irq, h.quiescent, fun _ _ => h.mover_isHost⟩⟩

end Sys2Proof.Machine
end
